-- ==== Sys2Proof/Word.lean ====
section
/-! DEFINITION. The machine's word, byte and register-index types (00_scope.md R7, R11). -/

namespace Sys2Proof

/-- A 32-bit value: every register, the program counter, an instruction word, a data word
(00_scope.md R7, R11). Its `+`, `-`, `&&&`, `|||`, `<<<` are the spec's, modulo 2^32. -/
abbrev Word := BitVec 32

/-- One byte of the instruction store (10_state.md R35). -/
abbrev Byte := BitVec 8

/-- A 5-bit register field: value `i` names register `i`, 0 ≤ i ≤ 31 (30_encoding.md R75). -/
abbrev RegIdx := BitVec 5

end Sys2Proof
end

