-- ==== Sys2Proof/Syntax.lean ====
section
/-! DEFINITION. The instructions, one constructor for each row of spec/opcode_table.json; the decoder's field
record; the opcode table itself; the register names; the spec's three pseudo-instructions. -/

namespace Sys2Proof

/-- The instructions of GFE-CORE (ORI, ADD, ADDU) and of GFE-EXT-JL (J, LW): 00_scope.md R6, 30_encoding.md
R78. Operands stand in the order of the assembler syntax (30_encoding.md R81). `shamt` of ADD and ADDU has no
effect (30_encoding.md R79); it is kept so that an instruction determines its word (log entry 9). Words that
match no row are no instruction of this type: the decoder rejects them by name and the step runs them as
unimplemented (40_step_fetch_dispatch.md R118; log entry 7). -/
inductive Instr where
  /-- `ori rt, rs, imm` (41_or_immediate.md R140). -/
  | ori (rt rs : RegIdx) (imm : BitVec 16)
  /-- `add rd, rs, rt`, the trapping add (42_add.md R150). -/
  | add (rd rs rt : RegIdx) (shamt : BitVec 5)
  /-- `addu rd, rs, rt`, the non-trapping add (42_add.md R160). -/
  | addu (rd rs rt : RegIdx) (shamt : BitVec 5)
  /-- `j target` (43_control_transfer.md R180). -/
  | j (target : BitVec 26)
  /-- `lw rt, imm(rs)` (44_loads.md R210). -/
  | lw (rt rs : RegIdx) (imm : BitVec 16)
deriving DecidableEq, Repr

/-- The decoder's record: every field of a word, whatever its `op` is (30_encoding.md R71, R73). -/
structure Fields where
  op : BitVec 6
  rs : RegIdx
  rt : RegIdx
  rd : RegIdx
  shamt : BitVec 5
  funct : BitVec 6
  imm : BitVec 16
  target : BitVec 26
deriving DecidableEq, Repr

/-- Why the decoder finds no instruction. Neither is an error of the machine: a word without an instruction runs
as an unimplemented one (40_step_fetch_dispatch.md R118). -/
inductive DecodeReject where
  /-- A primary opcode outside 30_encoding.md R76. -/
  | unknownOpcode (op : BitVec 6)
  /-- `op` 0x00 with a `funct` outside 30_encoding.md R77. -/
  | unknownFunct (funct : BitVec 6)
  /-- Not the four bytes of one word (every instruction is 4 bytes long: 30_encoding.md R70). -/
  | notOneWord (bytes : Nat)
deriving DecidableEq, Repr

/-- One row of the opcode table (30_encoding.md R78): a word `w` is this instruction when
`w &&& mask = pattern`. -/
structure OpcodeRow where
  mnemonic : String
  /-- The row belongs to GFE-EXT-JL, present only when `EXT_JL` is true (00_scope.md R6). -/
  ext : Bool
  pattern : Word
  mask : Word
deriving DecidableEq, Repr

/-! The rows of 30_encoding.md R78. -/

def oriRow : OpcodeRow := ⟨"ORI", false, 0x34000000#32, 0xFC000000#32⟩
def addRow : OpcodeRow := ⟨"ADD", false, 0x00000020#32, 0xFC00003F#32⟩
def adduRow : OpcodeRow := ⟨"ADDU", false, 0x00000021#32, 0xFC00003F#32⟩
def jRow : OpcodeRow := ⟨"J", true, 0x08000000#32, 0xFC000000#32⟩
def lwRow : OpcodeRow := ⟨"LW", true, 0x8C000000#32, 0xFC000000#32⟩

/-- The table of 30_encoding.md R78, row for row. -/
def opcodeTable : List OpcodeRow := [oriRow, addRow, adduRow, jRow, lwRow]

/-- The row of the table an instruction belongs to (30_encoding.md R78). -/
def Instr.row : Instr → OpcodeRow
  | .ori _ _ _ => oriRow
  | .add _ _ _ _ => addRow
  | .addu _ _ _ _ => adduRow
  | .j _ => jRow
  | .lw _ _ _ => lwRow

/-! The register names of 00_scope.md R16. No rule depends on them. -/

namespace Reg

abbrev zero : RegIdx := 0#5
abbrev at' : RegIdx := 1#5
abbrev v0 : RegIdx := 2#5
abbrev v1 : RegIdx := 3#5
abbrev a0 : RegIdx := 4#5
abbrev a1 : RegIdx := 5#5
abbrev a2 : RegIdx := 6#5
abbrev a3 : RegIdx := 7#5
abbrev t0 : RegIdx := 8#5
abbrev t1 : RegIdx := 9#5
abbrev t2 : RegIdx := 10#5
abbrev t3 : RegIdx := 11#5
abbrev t4 : RegIdx := 12#5
abbrev t5 : RegIdx := 13#5
abbrev t6 : RegIdx := 14#5
abbrev t7 : RegIdx := 15#5
abbrev s0 : RegIdx := 16#5
abbrev s1 : RegIdx := 17#5
abbrev s2 : RegIdx := 18#5
abbrev s3 : RegIdx := 19#5
abbrev s4 : RegIdx := 20#5
abbrev s5 : RegIdx := 21#5
abbrev s6 : RegIdx := 22#5
abbrev s7 : RegIdx := 23#5
abbrev t8 : RegIdx := 24#5
abbrev t9 : RegIdx := 25#5
abbrev k0 : RegIdx := 26#5
abbrev k1 : RegIdx := 27#5
abbrev gp : RegIdx := 28#5
abbrev sp : RegIdx := 29#5
abbrev fp : RegIdx := 30#5
abbrev ra : RegIdx := 31#5

end Reg

/-! The pseudo-instructions of 30_encoding.md R82 and the field assignment of `j addr` (R81). -/

/-- `nop`: `ori r0, r0, 0`. -/
def Instr.nop : Instr := .ori 0#5 0#5 0#16

/-- `li rt, imm`: `ori rt, r0, imm`. -/
def Instr.li (rt : RegIdx) (imm : BitVec 16) : Instr := .ori rt 0#5 imm

/-- `move rd, rs`: `addu rd, rs, r0`. -/
def Instr.move (rd rs : RegIdx) : Instr := .addu rd rs 0#5 0#5

/-- `j addr`: `target` is `addr[27:2]`. -/
def Instr.jumpTo (addr : Word) : Instr := .j (addr.extractLsb' 2 26)

end Sys2Proof
end

