-- ==== Sys2Proof/Config.lean ====
section
/-! DEFINITION. The implementation parameters the model takes as an argument (00_scope.md R8), the values of
them the spec leaves OPEN, and the one free value: what data memory answers (20_memory.md R57). -/

namespace Sys2Proof

/-- The parameters of 00_scope.md R8, each under its own name there. They are configuration, fixed for one
machine: no step and no host operation writes them. `Params.wf` (WellFormed.lean) is R8's column of
constraints. The oracle `DataRead32` of the same table is `Config.freeDataWord` below. -/
structure Params where
  /-- `ICACHE_BYTES`: the capacity of the instruction store, in bytes. -/
  icacheBytes : Nat
  /-- `CYCLE_BIAS`: what every fetch adds to `cycle`. -/
  cycleBias : Word
  /-- `EXC_VECTOR`: the one fixed exception vector. -/
  excVector : Word
  /-- `SP_INDEX`: the register the stack-pointer interceptor watches. -/
  spIndex : RegIdx
  /-- `LOAD_READ_CANCELS`: whether a read of its register cancels a pending load. -/
  loadReadCancels : Bool
  /-- `EPC_BD_ADJUST`: whether EPC names the branch when the fault is in a delay slot. -/
  epcBdAdjust : Bool
  /-- `EXT_JL`: whether the profile GFE-EXT-JL (J and LW) is present (00_scope.md R6). -/
  extJl : Bool
  /-- `CE_FOR_COP_FAULT`: CAUSE.CE of a coprocessor fault. No instruction in scope raises one. -/
  ceForCopFault : BitVec 2
deriving DecidableEq, Repr

namespace Config

/-- Uninterpreted. By how many words the instruction store falls short of the largest capacity, 2^32 bytes: it
stands for the capacity that 00_scope.md R8 leaves OPEN (log entry 2). -/
opaque missingIcacheWords : BitVec 30

/-- Uninterpreted. `CYCLE_BIAS`, which 00_scope.md R8 leaves OPEN (log entry 2). -/
opaque cycleBias : Word

/-- Uninterpreted. `EXC_VECTOR` as a word number, which 00_scope.md R8 leaves OPEN (log entry 2). -/
opaque excVectorWord : BitVec 30

/-- Uninterpreted. `CE_FOR_COP_FAULT`, which 00_scope.md R8 leaves OPEN (log entry 2). -/
opaque ceForCopFault : BitVec 2

/-- Uninterpreted: the FREE VALUE of the model. `freeDataWord n a` is what the data memory answers to the
`n`-th call of `DataRead32`, made with address `a`. The spec: "an oracle: a free draw with no law", and "each
`DataRead32` call is a fresh draw" (20_memory.md R56, R57; 93_implementation_defined.md G6; log entry 3). -/
opaque freeDataWord : Nat → Word → Word

/-- The parameters `State.reset` is given. The four OPEN ones are uninterpreted, within R8's constraints (a
capacity that is a multiple of 4 from 4 to 2^32, a vector that is a multiple of 4). The other four have the
"value in this spec" of R8's table. Log entry 2. -/
def params : Params where
  icacheBytes := 4 * ((~~~missingIcacheWords).toNat + 1)
  cycleBias := cycleBias
  excVector := excVectorWord ++ 0#2
  spIndex := 29#5
  loadReadCancels := true
  epcBdAdjust := false
  extJl := false
  ceForCopFault := ceForCopFault

end Config

end Sys2Proof
end

