-- ==== Sys2Proof/WellFormed.lean ====
section
/-! DEFINITION. What is well formed: the parameters (00_scope.md R8's constraints), and an instruction under
them (00_scope.md R6: J and LW exist only in the profile GFE-EXT-JL). The widths of an instruction's fields are
in its type, so no other check of it is left. -/

namespace Sys2Proof

/-- `ICACHE_BYTES` is "a multiple of 4, at least 4, at most 2^32" (00_scope.md R8). -/
abbrev Params.icacheBytesOk (p : Params) : Prop :=
  p.icacheBytes % 4 = 0 ∧ 4 ≤ p.icacheBytes ∧ p.icacheBytes ≤ 2 ^ 32

/-- `EXC_VECTOR` is "a multiple of 4" (00_scope.md R8). -/
abbrev Params.excVectorOk (p : Params) : Prop := p.excVector.extractLsb' 0 2 = 0#2

/-- `SP_INDEX` is "1 to 31" (00_scope.md R8). -/
abbrev Params.spIndexOk (p : Params) : Prop := p.spIndex ≠ 0#5

/-- The constraints of 00_scope.md R8: "A model is well formed only for values that meet the constraints
column." -/
abbrev Params.wf (p : Params) : Prop := p.icacheBytesOk ∧ p.excVectorOk ∧ p.spIndexOk

/-- The instruction is in the profile that the parameters select (00_scope.md R6, 30_encoding.md R76). An
instruction that is not has the encoding of an unimplemented one there. -/
def Instr.present (p : Params) : Instr → Bool
  | .ori _ _ _ => true
  | .add _ _ _ _ => true
  | .addu _ _ _ _ => true
  | .j _ => p.extJl
  | .lw _ _ _ => p.extJl

end Sys2Proof
end

