-- ==== Sys2Proof/Decode.lean ====
section
/-! DEFINITION. The instruction decoder (30_encoding.md), total on any word and on any bytes, and the encoder,
written from the same tables. -/

namespace Sys2Proof

/-- Four bytes, the one at the lowest offset first, as a word: little-endian (20_memory.md R52, R54). -/
def wordOfBytes (b0 b1 b2 b3 : Byte) : Word := b3 ++ b2 ++ b1 ++ b0

/-- Byte `k` of a word, byte 0 the least significant: the byte at offset `k` (20_memory.md R54). -/
def byteOfWord (w : Word) (k : Nat) : Byte := w.extractLsb' (8 * k) 8

/-- `Decode(w)`: "a pure, total function"; every field is extracted for every word (30_encoding.md R71, R73). -/
def decodeFields (w : Word) : Fields where
  op := w.extractLsb' 26 6
  rs := w.extractLsb' 21 5
  rt := w.extractLsb' 16 5
  rd := w.extractLsb' 11 5
  shamt := w.extractLsb' 6 5
  funct := w.extractLsb' 0 6
  imm := w.extractLsb' 0 16
  target := w.extractLsb' 0 26

/-- The secondary dispatch on `funct`, for `op` = 0x00 (30_encoding.md R77; 40_step_fetch_dispatch.md R111). -/
def decodeSpecial (d : Fields) : Except DecodeReject Instr :=
  if d.funct = 0x20#6 then .ok (.add d.rd d.rs d.rt d.shamt)
  else if d.funct = 0x21#6 then .ok (.addu d.rd d.rs d.rt d.shamt)
  else .error (.unknownFunct d.funct)

/-- The dispatch on the primary opcode (30_encoding.md R76; 40_step_fetch_dispatch.md R110). J and LW are read
whatever `EXT_JL` is: their meanings apply it, as R110's table does (log entry 8). -/
def decode (w : Word) : Except DecodeReject Instr :=
  let d := decodeFields w
  if d.op = 0x00#6 then decodeSpecial d
  else if d.op = 0x0D#6 then .ok (.ori d.rt d.rs d.imm)
  else if d.op = 0x02#6 then .ok (.j d.target)
  else if d.op = 0x23#6 then .ok (.lw d.rt d.rs d.imm)
  else .error (.unknownOpcode d.op)

/-- The decoder on bytes, the one at the lowest offset first. An instruction is always 4 bytes long
(30_encoding.md R70). -/
def decodeBytes : List Byte → Except DecodeReject Instr
  | [b0, b1, b2, b3] => decode (wordOfBytes b0 b1 b2 b3)
  | bs => .error (.notOneWord bs.length)

/-- The R-format word (30_encoding.md R72) with `op` = 0x00. -/
def encodeR (rs rt rd : RegIdx) (shamt : BitVec 5) (funct : BitVec 6) : Word :=
  0x00#6 ++ rs ++ rt ++ rd ++ shamt ++ funct

/-- The I-format word (30_encoding.md R72). -/
def encodeI (op : BitVec 6) (rs rt : RegIdx) (imm : BitVec 16) : Word := op ++ rs ++ rt ++ imm

/-- The J-format word (30_encoding.md R72). -/
def encodeJ (op : BitVec 6) (target : BitVec 26) : Word := op ++ target

/-- The word of an instruction (30_encoding.md R72, R76, R77). -/
def encode : Instr → Word
  | .ori rt rs imm => encodeI 0x0D#6 rs rt imm
  | .add rd rs rt shamt => encodeR rs rt rd shamt 0x20#6
  | .addu rd rs rt shamt => encodeR rs rt rd shamt 0x21#6
  | .j target => encodeJ 0x02#6 target
  | .lw rt rs imm => encodeI 0x23#6 rs rt imm

/-- The four bytes of an instruction, the one at the lowest offset first. -/
def encodeBytes (i : Instr) : List Byte := (List.range 4).map (byteOfWord (encode i))

/-- The low `nbits` bits of `w`, every higher bit of the instruction's word 0. -/
def tableWord (nbits w : Nat) : Word := BitVec.ofNat 32 (w % 2 ^ nbits)

/-- The instruction the decoder reads from a word numbered as spec/opcode_table.json numbers it, laid out as
the instruction store holds it. -/
def decodeTableWord (nbits w : Nat) : Option Instr :=
  (decodeBytes ((List.range 4).map (byteOfWord (tableWord nbits w)))).toOption

end Sys2Proof
end

