-- ==== Sys2Proof/Machine/Operands.lean ====
section
/-! DEFINITION. The operand forms that are computed from an instruction's fields (30_encoding.md R74). A register
operand is read by `readOp` (Machine/Ops.lean); there is no other form (30_encoding.md R75). -/

namespace Sys2Proof.Machine

/-- ORI's immediate: `zext_32(imm)` (30_encoding.md R74; 41_or_immediate.md R144). -/
def zextImm (imm : BitVec 16) : Word := imm.setWidth 32

/-- LW's offset: `sext_32(imm)` (30_encoding.md R74). -/
def sextImm (imm : BitVec 16) : Word := imm.signExtend 32

/-- LW's address: `base + sext_32(imm)`, modulo 2^32 (44_loads.md R210). -/
def effectiveAddress (base : Word) (imm : BitVec 16) : Word := base + sextImm imm

/-- J's target: `{ pc[31:28], target, 00 }`, where `pc` is the offset of the delay slot (30_encoding.md R74;
43_control_transfer.md R180). -/
def jumpTarget (pc : Word) (target : BitVec 26) : Word := pc.extractLsb' 28 4 ++ target ++ 0#2

/-- A byte offset or address that is a multiple of 4: its bits 1:0 are 0 (20_memory.md R55). -/
abbrev Aligned (a : Word) : Prop := a.extractLsb' 0 2 = 0#2

end Sys2Proof.Machine
end

