-- ==== Sys2Proof/Machine/State.lean ====
section
/-! DEFINITION. The Processor State (10_state.md R20), the step-local context (40_step_fetch_dispatch.md R100),
the reasons a step can stop, and the state after reset (70_reset_and_hazards.md R270). -/

namespace Sys2Proof.Machine

/-- The instruction store `icache_code` (10_state.md R35): (offset, byte) pairs, offsets strictly rising, no pair
holding the zero byte that an unlisted offset reads as. `Memory.wf` (Machine/Ops.lean) is that form. -/
abbrev Memory := List Host.Cell

/-- `settings` (10_state.md R29): one field. -/
structure Settings where
  /-- `settings.overflow_check`: whether ADD traps on signed overflow (42_add.md R151). -/
  overflowCheck : Bool
deriving DecidableEq, Repr

/-- A load slot: the state's `ld_pending`, `ld_reg`, `ld_value` (10_state.md R38), and the step-local `old` and
`new` (44_loads.md R201). -/
structure LoadSlot where
  valid : Bool
  reg : RegIdx
  value : Word
deriving DecidableEq, Repr

/-- The slot `{ valid: false, reg: 0, value: 0 }` (44_loads.md R201; the reset of 10_state.md R20). -/
def LoadSlot.empty : LoadSlot := ⟨false, 0#5, 0#32⟩

/-- The events of a step, by class and payload (40_step_fetch_dispatch.md R117, R122). The text of a log message
is not normative and has no place here. -/
inductive Event where
  /-- `Log(UnknownInstruction, {word, op, funct})` (40_step_fetch_dispatch.md R118). -/
  | logUnknownInstruction (word : Word) (op funct : BitVec 6)
  /-- `Log(ArithmeticOverflow, {addr})` (42_add.md R152). -/
  | logArithmeticOverflow (addr : Word)
  /-- `SpWrite(old, new)`: the stack-pointer interceptor (40_step_fetch_dispatch.md R117). -/
  | spWrite (old new : Word)
deriving DecidableEq, Repr

/-- The exception kinds: "A model's exception type has exactly one constructor" (60_exceptions.md R230). -/
inductive ExceptionKind where
  | arithmeticOverflow
deriving DecidableEq, Repr

/-- The Processor State of 10_state.md R20, field for field, then the model's own fields (INVENTORY.md, State). -/
structure State where
  /-- The byte offset of the next instruction to fetch (10_state.md R24). -/
  pc : Word
  /-- The most recently fetched word (10_state.md R26). -/
  code : Word
  /-- The cycle counter, wrapping (10_state.md R28). -/
  cycle : Word
  /-- `x[0..31]`, read and written through `readReg` and `writeReg` only, where `x[0]` is hardwired to zero
  (10_state.md R22; log entry 11). -/
  gpr : Vector Word 32
  /-- `hi` (10_state.md R27): storage. -/
  hi : Word
  /-- `lo` (10_state.md R27): storage. -/
  lo : Word
  /-- The system-control bank: SR = 12, CAUSE = 13, EPC = 14, the rest storage (10_state.md R30 to R33). -/
  cop0 : Vector Word 32
  /-- The second coprocessor bank: storage (10_state.md R34). -/
  cop2 : Vector Word 32
  /-- `icache_code` (10_state.md R35). -/
  icache : Memory
  /-- The delay-slot controller's state: false = NORMAL, true = IN_DELAY_SLOT (10_state.md R36). -/
  inDelaySlot : Bool
  /-- The run-time settings (10_state.md R29). -/
  settings : Settings
  /-- The armed branch target (10_state.md R37). -/
  branchTarget : Word
  /-- The pending delayed load: `ld_pending`, `ld_reg`, `ld_value` (10_state.md R38). -/
  ld : LoadSlot
  /-- The model's own: the parameters, which 00_scope.md R8 has the model take as an argument. Never written
  (log entry 1). -/
  params : Params
  /-- The model's own: the events of the step, `OK(events)` of 40_step_fetch_dispatch.md R100 (log entry 5). -/
  events : List Event
  /-- The model's own, about the world outside: the words the host has fixed its data memory's answers to, by
  address. An address that is not listed is answered by a free draw (20_memory.md R57; log entry 3). -/
  dataAnswers : List (Word × Word)
  /-- The model's own: how many times `DataRead32` has been called, which makes each free draw a fresh one
  (20_memory.md R56; log entry 3). -/
  dataReads : Nat
deriving DecidableEq, Repr

/-- The step-local names of 40_step_fetch_dispatch.md R100 that live across phases 2 to 6, beside the state they
act on. `w` and `d` are `st.code` and its decoding; `events` is `st.events`. -/
structure StepCtx where
  /-- The Processor State, as written so far in the step. -/
  st : State
  /-- The step's delay-slot flag (40_step_fetch_dispatch.md R105). -/
  ds : Bool
  /-- The load issued by the step before (44_loads.md R201). -/
  old : LoadSlot
  /-- The load issued by this step (44_loads.md R201). -/
  new : LoadSlot
  /-- Whether this step raised an exception (60_exceptions.md R233). -/
  exc : Bool
  /-- The target of a branch taken by this step (43_control_transfer.md R172). -/
  arm : Option Word
deriving DecidableEq, Repr

/-- The contract violations that end a step with `FATAL` (40_step_fetch_dispatch.md R101). The run ends there;
the state of the run is the one before the step, and the step's events are discarded. Each is SAFE: the machine
stops where the spec gives no behaviour. -/
inductive Fault where
  /-- `FATAL(FetchOutOfRange, a)`: raised by the fetch of every step (20_memory.md R52). Safe. -/
  | fetchOutOfRange (a : Word)
  /-- `FATAL(BranchInDelaySlot, a)`: raised by J in a delay slot (43_control_transfer.md R176). Safe. -/
  | branchInDelaySlot (a : Word)
  /-- `FATAL(MisalignedLoad, ea)`: raised by LW at an address that is no multiple of 4 (44_loads.md R211). Safe. -/
  | misalignedLoad (ea : Word)
deriving DecidableEq, Repr

/-- The machine refuses nothing of its own: every instruction of the table has a meaning, and every other word
is a logged no-op (40_step_fetch_dispatch.md R118, R123). -/
inductive Refusal where
  /-- Raised by no instruction of this model: an arm of `exec` without a meaning would answer it. Safe. -/
  | notModelled (mnemonic : String)
deriving DecidableEq, Repr

/-- "Zero-initializes every field" (10_state.md R20; 70_reset_and_hazards.md R270), for a machine with the
parameters `p`. The host has fixed no data answer and no data read has been made (log entry 4). -/
def State.zeroed (p : Params) : State where
  pc := 0#32
  code := 0#32
  cycle := 0#32
  gpr := Vector.replicate 32 0#32
  hi := 0#32
  lo := 0#32
  cop0 := Vector.replicate 32 0#32
  cop2 := Vector.replicate 32 0#32
  icache := []
  inDelaySlot := false
  settings := ⟨false⟩
  branchTarget := 0#32
  ld := LoadSlot.empty
  params := p
  events := []
  dataAnswers := []
  dataReads := 0

/-- The state `PowerOn` leaves (70_reset_and_hazards.md R270, R276). -/
def State.reset : State := State.zeroed Config.params

end Sys2Proof.Machine
end

