-- ==== Sys2Proof/Machine/Ops.lean ====
section
/-! DEFINITION. The operations every instruction is made of (40_step_fetch_dispatch.md R113): the instruction
store, the registers, the write-commit protocol, the delayed load, the data port, taking an exception, and the
phases of a step around an instruction's action. There is no return from exception (60_exceptions.md R243). -/

namespace Sys2Proof.Machine

/-! ## The instruction store (20_memory.md) -/

/-- One byte of the store. An unlisted offset reads as 0x00, the reset content (10_state.md R20). -/
def Memory.read : Memory → Nat → Byte
  | [], _ => 0#8
  | (k, v) :: m, a => if k = a then v else Memory.read m a

/-- Put one byte in front of cells with higher offsets: a zero byte is left unlisted. -/
def Memory.put (a : Nat) (b : Byte) (m : Memory) : Memory := if b = 0#8 then m else (a, b) :: m

/-- Write one byte, keeping the canonical form. -/
def Memory.write : Memory → Nat → Byte → Memory
  | [], a, b => Memory.put a b []
  | (k, v) :: m, a, b =>
    if a < k then Memory.put a b ((k, v) :: m)
    else if a = k then Memory.put a b m
    else (k, v) :: Memory.write m a b

/-- The canonical form: offsets strictly rising, no cell holding what an unlisted offset reads as. -/
abbrev Memory.wf (m : Memory) : Prop :=
  m.Pairwise (fun c d => c.1 < d.1) ∧ ∀ c ∈ m, c.2 ≠ 0#8

/-- The little-endian word at offset `a` of the store (20_memory.md R52, R54). -/
def Memory.readWord (m : Memory) (a : Nat) : Word :=
  wordOfBytes (m.read a) (m.read (a + 1)) (m.read (a + 2)) (m.read (a + 3))

/-- Write the bytes `bs` at `a`, `a + 1`, and so on. -/
def Memory.writeBytes : Memory → Nat → List Byte → Memory
  | m, _, [] => m
  | m, a, b :: bs => Memory.writeBytes (m.write a b) (a + 1) bs

/-- The word `w` in the four bytes at `pc`. Where those bytes are not all inside the store there is no such
place, and `s` stays as it is (log entry 14). -/
def placeAtPc (w : Word) (s : State) : State :=
  if s.params.icacheBytes < s.pc.toNat + 4 then s
  else { s with icache := s.icache.writeBytes s.pc.toNat ((List.range 4).map (byteOfWord w)) }

/-- `IFetch(a)` (20_memory.md R52): none where the spec's is `fatal FetchOutOfRange(a)`. The bound is computed on
naturals. -/
def iFetch (s : State) (a : Word) : Option Word :=
  if ¬ Aligned a ∨ s.params.icacheBytes < a.toNat + 4 then none
  else some (s.icache.readWord a.toNat)

/-! ## Events and registers -/

/-- `emit E` (00_scope.md R12; 40_step_fetch_dispatch.md R121). -/
def emit (e : Event) (s : State) : State := { s with events := s.events ++ [e] }

/-- `x[i]`: `x[0]` is always 0 (10_state.md R22). -/
def readReg (s : State) (i : RegIdx) : Word := if i = 0#5 then 0#32 else s.gpr[i.toNat]'i.isLt

/-- `x[i] <- v`, the raw write: a write to `x[0]` is discarded (10_state.md R22). -/
def writeReg (i : RegIdx) (v : Word) (s : State) : State :=
  if i = 0#5 then s else { s with gpr := s.gpr.set i.toNat v i.isLt }

/-- `cop0[n]` (10_state.md R30). -/
def readCop0 (s : State) (n : RegIdx) : Word := s.cop0[n.toNat]'n.isLt

/-- `cop0[n] <- v` (10_state.md R30). -/
def writeCop0 (n : RegIdx) (v : Word) (s : State) : State := { s with cop0 := s.cop0.set n.toNat v n.isLt }

/-- `cop2[n]` (10_state.md R34). -/
def readCop2 (s : State) (n : RegIdx) : Word := s.cop2[n.toNat]'n.isLt

/-- SR = `cop0[12]` (10_state.md R30, R31). -/
abbrev srReg : RegIdx := 12#5

/-- CAUSE = `cop0[13]` (10_state.md R30, R32). -/
abbrev causeReg : RegIdx := 13#5

/-- EPC = `cop0[14]` (10_state.md R30, R33). -/
abbrev epcReg : RegIdx := 14#5

/-- `pc <- target`. -/
def setPc (v : Word) (s : State) : State := { s with pc := v }

/-- The stack-pointer interceptor on a write of `v` to register `r` that has not committed yet: the event carries
the old value and the new one (40_step_fetch_dispatch.md R114 (c), R115, R117). -/
def interceptSp (r : RegIdx) (v : Word) (s : State) : State :=
  if r = s.params.spIndex then emit (.spWrite (readReg s r) v) s else s

/-- Interceptor, then commit: steps (c) and (d) of 40_step_fetch_dispatch.md R114, and the whole of
`ResolveLoad` (44_loads.md R208). -/
def commitReg (r : RegIdx) (v : Word) (s : State) : State := writeReg r v (interceptSp r v s)

/-! ## The load-hazard canceller (44_loads.md) -/

/-- `if old.valid and old.reg == r: old.valid <- false` (44_loads.md R203, R204, R205). -/
def LoadSlot.cancel (r : RegIdx) (old : LoadSlot) : LoadSlot :=
  if old.valid = true ∧ old.reg = r then { old with valid := false } else old

/-- The cancellation by a read of register `i`, for an instruction whose destination is `dst` (44_loads.md
R205). -/
def cancelByRead (i dst : RegIdx) (c : StepCtx) : StepCtx :=
  if c.st.params.loadReadCancels = true ∧ dst ≠ 0#5 then { c with old := c.old.cancel i } else c

/-- `ReadOp(i, dst)` (44_loads.md R205): the value and the context after the read. -/
def readOp (i dst : RegIdx) (c : StepCtx) : Word × StepCtx := (readReg c.st i, cancelByRead i dst c)

/-- `WriteGPR(r, v)`, the common write-commit protocol, steps (a) to (d) (40_step_fetch_dispatch.md R114). -/
def writeGPR (r : RegIdx) (v : Word) (c : StepCtx) : StepCtx :=
  if r = 0#5 then c else { c with old := c.old.cancel r, st := commitReg r v c.st }

/-- `IssueLoad(r, v)` (44_loads.md R203). -/
def issueLoad (r : RegIdx) (v : Word) (c : StepCtx) : StepCtx :=
  { c with old := c.old.cancel r, new := ⟨true, r, v⟩ }

/-- `ResolveLoad(r, v)` (44_loads.md R208): the resolution runs no hazard check. -/
def resolveLoad (r : RegIdx) (v : Word) (s : State) : State := commitReg r v s

/-! ## The data port -/

/-- What `DataRead32(a)` answers next (20_memory.md R57): the word the host has fixed for `a`, else a free draw
(log entry 3). -/
def dataWordAt (s : State) (a : Word) : Word :=
  match s.dataAnswers.lookup a with
  | some v => v
  | none => Config.freeDataWord s.dataReads a

/-- `MemRead(a, 4)`: one call of `DataRead32(a)` (20_memory.md R57). -/
def dataRead32 (a : Word) (c : StepCtx) : Word × StepCtx :=
  (dataWordAt c.st a, { c with st := { c.st with dataReads := c.st.dataReads + 1 } })

/-! ## Taking an exception (60_exceptions.md) -/

/-- `ExcCode(K)`: 12 for arithmetic overflow (60_exceptions.md R231). -/
def excCode : ExceptionKind → BitVec 5
  | .arithmeticOverflow => 12#5

/-- `EnterEPC(fa, bd)` (60_exceptions.md R234). -/
def enterEpc (fa : Word) (bd : Bool) (s : State) : State :=
  writeCop0 epcReg (if s.params.epcBdAdjust = true ∧ bd = true then fa - 4#32 else fa) s

/-- What exception entry makes of SR: `(sr & 0xFFFFFFC0) | ((sr << 2) & 0x0000003C)` (60_exceptions.md R235). -/
def pushedSr (sr : Word) : Word := (sr &&& 0xFFFFFFC0#32) ||| ((sr <<< 2) &&& 0x0000003C#32)

/-- `EnterSR()` (60_exceptions.md R235). -/
def enterSr (s : State) : State := writeCop0 srReg (pushedSr (readCop0 s srReg)) s

/-- What exception entry makes of CAUSE (60_exceptions.md R236). -/
def recordedCause (cause : Word) (k : ExceptionKind) (bd : Bool) (ce : BitVec 2) : Word :=
  (cause &&& 0x4FFFFF83#32) ||| ((BitVec.ofBool bd).setWidth 32 <<< 31) ||| (ce.setWidth 32 <<< 28)
    ||| ((excCode k).setWidth 32 <<< 2)

/-- `EnterCause(K, bd, cop)` (60_exceptions.md R236). -/
def enterCause (k : ExceptionKind) (bd cop : Bool) (s : State) : State :=
  writeCop0 causeReg
    (recordedCause (readCop0 s causeReg) k bd (if cop then s.params.ceForCopFault else 0#2)) s

/-- The state part of `raise K(bd, cop)`: the faulting address is the `pc` at the call, and `pc` becomes the
exception vector (60_exceptions.md R233, R237). -/
def takeException (k : ExceptionKind) (bd cop : Bool) (s : State) : State :=
  setPc s.params.excVector (enterCause k bd cop (enterSr (enterEpc s.pc bd s)))

/-- `raise K(bd, cop)` (60_exceptions.md R233): the exception redirect FSM runs from IDLE to IDLE within the step
(R239). -/
def raise (k : ExceptionKind) (bd cop : Bool) (c : StepCtx) : StepCtx :=
  { c with st := takeException k bd cop c.st, exc := true }

/-! ## The phases of a step (40_step_fetch_dispatch.md R100) -/

/-- Phase 1 on a word that has been read (40_step_fetch_dispatch.md R102), with `events <- []`. -/
def afterFetch (w : Word) (s : State) : State :=
  { s with events := [], code := w, pc := s.pc + 4#32, cycle := s.cycle + s.params.cycleBias }

/-- Phase 1: the fetch unit (40_step_fetch_dispatch.md R102). A fetch out of range ends the step (R101). -/
def fetch (s : State) : Host.Outcome State Fault Refusal :=
  match iFetch s s.pc with
  | none => .fault (.fetchOutOfRange s.pc)
  | some w => .next (afterFetch w s)

/-- Phase 2, and the step-local names as phase 4 finds them (40_step_fetch_dispatch.md R100; 44_loads.md R201). -/
def beginStep (s : State) : StepCtx where
  st := s
  ds := s.inDelaySlot
  old := s.ld
  new := LoadSlot.empty
  exc := false
  arm := none

/-- Phase 5: the branch delay-slot controller (43_control_transfer.md R173). -/
def sequenceDelaySlot (c : StepCtx) : StepCtx :=
  if c.exc then { c with st := { c.st with inDelaySlot := false } }
  else if c.ds then { c with st := { c.st with pc := c.st.branchTarget, inDelaySlot := false } }
  else
    match c.arm with
    | none => c
    | some t => { c with st := { c.st with branchTarget := t, inDelaySlot := true } }

/-- Phase 6: the old load resolves unless it was cancelled, and the slot is filled again (44_loads.md R207). -/
def resolvePending (c : StepCtx) : State :=
  let s := if c.old.valid then resolveLoad c.old.reg c.old.value c.st else c.st
  { s with ld := c.new }

/-- Phases 5 and 6. -/
def endStep (c : StepCtx) : State := resolvePending (sequenceDelaySlot c)

/-- Phases 2, 4, 5 and 6 around an instruction's action (40_step_fetch_dispatch.md R100). An action that ends
with `fatal` ends the step (R101). -/
def runAction (action : StepCtx → Host.Outcome StepCtx Fault Refusal) (s : State) :
    Host.Outcome State Fault Refusal :=
  match action (beginStep s) with
  | .next c => .next (endStep c)
  | .fault r => .fault r
  | .refused r => .refused r

end Sys2Proof.Machine
end

