-- ==== Sys2Proof/Machine/Unimplemented.lean ====
section
/-! DEFINITION. A word that is no instruction of the dispatch table: a logged no-op, never an exception and never
fatal (40_step_fetch_dispatch.md R118, R119, R123; 30_encoding.md R80). -/

namespace Sys2Proof.Machine

/-- The payload `{word, op, funct}` of a word's log event (40_step_fetch_dispatch.md R118, R122). -/
def unknownInstructionEvent (w : Word) : Event :=
  .logUnknownInstruction w (decodeFields w).op (decodeFields w).funct

/-- `Unimplemented(d)`: one log event and nothing else (40_step_fetch_dispatch.md R118). `code` holds the word. -/
def unimplementedAction (c : StepCtx) : Host.Outcome StepCtx Fault Refusal :=
  .next { c with st := emit (unknownInstructionEvent c.st.code) c.st }

/-- The step of an unimplemented word, after its fetch: phases 2, 5 and 6 run as for any instruction
(40_step_fetch_dispatch.md R119). -/
def execUnimplemented (s : State) : Host.Outcome State Fault Refusal := runAction unimplementedAction s

end Sys2Proof.Machine
end

