-- ==== Sys2Proof/Machine/ControlTransfer.lean ====
section
/-! DEFINITION. J, of the profile GFE-EXT-JL (43_control_transfer.md R180). -/

namespace Sys2Proof.Machine

/-- J's action (43_control_transfer.md R180): it arms the delay slot and redirects nothing itself (R172). In a
delay slot it is `FATAL(BranchInDelaySlot)` with its own offset (R176). -/
def jAction (target : BitVec 26) (c : StepCtx) : Host.Outcome StepCtx Fault Refusal :=
  if c.ds then .fault (.branchInDelaySlot (c.st.pc - 4#32))
  else .next { c with arm := some (jumpTarget c.st.pc target) }

/-- J, after its fetch: `if EXT_JL then J(d) else Unimplemented(d)` (40_step_fetch_dispatch.md R110). -/
def execJ (target : BitVec 26) (s : State) : Host.Outcome State Fault Refusal :=
  if s.params.extJl then runAction (jAction target) s else execUnimplemented s

end Sys2Proof.Machine
end

