-- ==== Sys2Proof/Machine/Flags.lean ====
section
/-! DEFINITION. The block has no status flags (10_state.md R39). The one condition that an operation computes
beside its result is ADD's signed overflow. -/

namespace Sys2Proof.Machine

/-- `(a[31] == b[31]) and (r[31] != a[31])` with `r = a + b`: "the sign bits of both operands match each other
and differ from the sign bit of the result" (42_add.md R150, R151; 00_scope.md R13). -/
def addOverflows (a b : Word) : Bool := a.msb == b.msb && (a + b).msb != a.msb

end Sys2Proof.Machine
end

