-- ==== Sys2Proof/Machine/IntegerAdd.lean ====
section
/-! DEFINITION. Integer add: ADD, which traps on signed overflow when checking is on, and ADDU (42_add.md). -/

namespace Sys2Proof.Machine

/-- ADD's trap: the rollback of `pc`, the diagnostic with the rolled-back `pc`, then the exception, in this order
(42_add.md R152). -/
def addTrap (c : StepCtx) : StepCtx :=
  let c := { c with st := setPc (c.st.pc - 4#32) c.st }
  let c := { c with st := emit (.logArithmeticOverflow c.st.pc) c.st }
  raise .arithmeticOverflow c.ds false c

/-- ADD's action (42_add.md R150). The trap is taken with `rd` = 0 too (R155). -/
def addAction (rd rs rt : RegIdx) (c : StepCtx) : Host.Outcome StepCtx Fault Refusal :=
  let a := readOp rs rd c
  let b := readOp rt rd a.2
  if b.2.st.settings.overflowCheck = true ∧ addOverflows a.1 b.1 = true then .next (addTrap b.2)
  else .next (writeGPR rd (a.1 + b.1) b.2)

/-- ADD, after its fetch. -/
def execAdd (rd rs rt : RegIdx) (s : State) : Host.Outcome State Fault Refusal :=
  runAction (addAction rd rs rt) s

/-- ADDU's action (42_add.md R160); with `rd` = 0 it has no effect at all. -/
def adduAction (rd rs rt : RegIdx) (c : StepCtx) : Host.Outcome StepCtx Fault Refusal :=
  if rd = 0#5 then .next c
  else
    let a := readOp rs rd c
    let b := readOp rt rd a.2
    .next (writeGPR rd (a.1 + b.1) b.2)

/-- ADDU, after its fetch. -/
def execAddu (rd rs rt : RegIdx) (s : State) : Host.Outcome State Fault Refusal :=
  runAction (adduAction rd rs rt) s

end Sys2Proof.Machine
end

