-- ==== Sys2Proof/Machine/Loads.lean ====
section
/-! DEFINITION. LW, of the profile GFE-EXT-JL (44_loads.md R210). -/

namespace Sys2Proof.Machine

/-- LW's action (44_loads.md R210): the memory is read in this step, the register is written one step later. With
`rt` = 0 it has no effect at all; a misaligned address is `FATAL(MisalignedLoad)` (R211). -/
def lwAction (rt rs : RegIdx) (imm : BitVec 16) (c : StepCtx) : Host.Outcome StepCtx Fault Refusal :=
  if rt = 0#5 then .next c
  else
    let base := readOp rs rt c
    let ea := effectiveAddress base.1 imm
    if ¬ Aligned ea then .fault (.misalignedLoad ea)
    else
      let v := dataRead32 ea base.2
      .next (issueLoad rt v.1 v.2)

/-- LW, after its fetch: `if EXT_JL then LW(d) else Unimplemented(d)` (40_step_fetch_dispatch.md R110). -/
def execLw (rt rs : RegIdx) (imm : BitVec 16) (s : State) : Host.Outcome State Fault Refusal :=
  if s.params.extJl then runAction (lwAction rt rs imm) s else execUnimplemented s

end Sys2Proof.Machine
end

