-- ==== Sys2Proof/Machine/OrImmediate.lean ====
section
/-! DEFINITION. OR-immediate (41_or_immediate.md). -/

namespace Sys2Proof.Machine

/-- ORI's action (41_or_immediate.md R140); with `rt` = 0 it has no effect at all (R141). -/
def oriAction (rt rs : RegIdx) (imm : BitVec 16) (c : StepCtx) : Host.Outcome StepCtx Fault Refusal :=
  if rt = 0#5 then .next c
  else
    let a := readOp rs rt c
    .next (writeGPR rt (a.1 ||| zextImm imm) a.2)

/-- ORI, after its fetch. -/
def execOri (rt rs : RegIdx) (imm : BitVec 16) (s : State) : Host.Outcome State Fault Refusal :=
  runAction (oriAction rt rs imm) s

end Sys2Proof.Machine
end

