-- ==== Sys2Proof/Machine/Dispatch.lean ====
section
/-! DEFINITION. The dispatch/execute table (40_step_fetch_dispatch.md R110 to R112): one arm for each row of the
opcode table, each acting on the state after the fetch (log entry 6). -/

namespace Sys2Proof.Machine

def exec (i : Instr) (s : State) : Host.Outcome State Fault Refusal :=
  match i with
  | .ori rt rs imm => Sys2Proof.Machine.execOri rt rs imm s
  | .add rd rs rt _ => Sys2Proof.Machine.execAdd rd rs rt s
  | .addu rd rs rt _ => Sys2Proof.Machine.execAddu rd rs rt s
  | .j target => Sys2Proof.Machine.execJ target s
  | .lw rt rs imm => Sys2Proof.Machine.execLw rt rs imm s

end Sys2Proof.Machine
end

