-- ==== Sys2Proof/Machine/Sequence.lean ====
section
/-! DEFINITION. The phases of a step after its fetch (40_step_fetch_dispatch.md R100). -/

namespace Sys2Proof.Machine

/-- Phases 3 to 6, on the state after the fetch: decode `code`, then run the instruction, or the logged no-op of
a word that is none (40_step_fetch_dispatch.md R106, R110, R118). -/
def decodeAndExec (s : State) : Host.Outcome State Fault Refusal :=
  match decode s.code with
  | .ok i => exec i s
  | .error _ => execUnimplemented s

end Sys2Proof.Machine
end

