-- ==== Sys2Proof/Machine/Step.lean ====
section
/-! DEFINITION. One step (40_step_fetch_dispatch.md R100), and where a program's word is placed for it. -/

namespace Sys2Proof.Machine

/-- `Step` (40_step_fetch_dispatch.md R100): phase 1, then phases 2 to 6. -/
def step (s : State) : Host.Outcome State Fault Refusal :=
  match fetch s with
  | .next s' => decodeAndExec s'
  | .fault r => .fault r
  | .refused r => .refused r

/-- `s` with the instruction `w` of `nbits` bits where the next step fetches (log entry 14). -/
def State.withFetchWord (s : State) (nbits w : Nat) : State := placeAtPc (tableWord nbits w) s

end Sys2Proof.Machine
end

