-- ==== Sys2Proof/Machine/HostOps.lean ====
section
/-! DEFINITION. The host's side of the interfaces of 00_scope.md R10 and 70_reset_and_hazards.md R283, as
operations between steps: power, the writes of the instruction store and of the settings, the answers of the
data memory, and the register dump. -/

namespace Sys2Proof.Machine

/-- `PowerOn`: every field of the Processor State becomes zero (70_reset_and_hazards.md R270). The machine keeps
its parameters, and what the model holds about the world outside stays (log entry 15). -/
def powerOn (s : State) : State :=
  { State.zeroed s.params with dataAnswers := s.dataAnswers, dataReads := s.dataReads }

/-- `PowerOff`: "identical effect to power-on" (70_reset_and_hazards.md R271). -/
def powerOff (s : State) : State := powerOn s

/-- `WriteICache(offset, byte)` (20_memory.md R53): none where "a host write to an offset outside the store is
outside the model: it has no move". -/
def writeICache (offset : Nat) (b : Byte) (s : State) : Option State :=
  if offset < s.params.icacheBytes then some { s with icache := s.icache.write offset b } else none

/-- The program image, byte by byte (70_reset_and_hazards.md R274, step 2). -/
def writeImage : Nat → List Byte → State → Option State
  | _, [], s => some s
  | o, b :: bs, s =>
    match writeICache o b s with
    | none => none
    | some s' => writeImage (o + 1) bs s'

/-- `WriteSettings(overflow_check)` (10_state.md R29). -/
def writeSettings (v : Bool) (s : State) : State := { s with settings := ⟨v⟩ }

/-- The host fixes what its data memory answers at `a` from now on (20_memory.md R57; log entry 3). -/
def answerData (a v : Word) (s : State) : State := { s with dataAnswers := (a, v) :: s.dataAnswers }

/-- The launch state (70_reset_and_hazards.md R274, R276): power-on, the image at offset 0, the settings. -/
def launch (p : Params) (image : List Byte) (overflowCheck : Bool) : Option State :=
  (writeImage 0 image (State.zeroed p)).map (writeSettings overflowCheck)

/-- The content of the register dump, in its order (70_reset_and_hazards.md R282). Its text is open (log entry
16). -/
structure RegisterDump where
  code : Word
  pc : Word
  /-- Four rows of eight: row `k` holds `x[8k]` to `x[8k+7]`. -/
  rows : List (List Word)
  hi : Word
  lo : Word
deriving DecidableEq, Repr

/-- The register dump: a read of the state (70_reset_and_hazards.md R282). -/
def registerDump (s : State) : RegisterDump where
  code := s.code
  pc := s.pc
  rows := (List.range 4).map fun k => (List.range 8).map fun j => readReg s (BitVec.ofNat 5 (8 * k + j))
  hi := s.hi
  lo := s.lo

end Sys2Proof.Machine
end

