-- ==== Sys2Proof/Machine/Run.lean ====
section
/-! DEFINITION. What a run of steps lets the host observe (70_reset_and_hazards.md R284). -/

namespace Sys2Proof.Machine

/-- A run that is *Stopped* after `n` `OK` steps: the state and the run's event list. A run that a step ended
with `FATAL` is that step's reason (70_reset_and_hazards.md R284). -/
def observeRun : Nat → State → Host.Outcome (State × List Event) Fault Refusal
  | 0, s => .next (s, [])
  | n + 1, s =>
    match step s with
    | .fault r => .fault r
    | .refused r => .refused r
    | .next s' =>
      match observeRun n s' with
      | .next (t, es) => .next (t, s'.events ++ es)
      | .fault r => .fault r
      | .refused r => .refused r

end Sys2Proof.Machine
end

