-- ==== Sys2Proof/Safety.lean ====
section
/-! DEFINITION. What a safe run is, the invariants, and the terms in which claims speak of an instruction: does it
trap, does it branch, what does it do to the pending load, what may it leave unchanged. Each is written from the
spec's rules, beside the meanings and not through them. -/

namespace Sys2Proof.Machine

/-- A run of `n` steps in which no step is `FATAL`: the premise "no `FATAL`" of 70_reset_and_hazards.md R284. -/
def SafeRun (n : Nat) (s : State) : Prop := ∃ t, Sys2Proof.core.run n s = .next t

/-! ## Invariants -/

/-- What every state of a run meets. `pc` is a multiple of 4 "whenever a step begins" (10_state.md R24), the load
slot never names register 0 (R38), the store is in its canonical form and inside its capacity, and the parameters
meet 00_scope.md R8. -/
structure Inv (s : State) : Prop where
  paramsWf : s.params.wf
  icacheWf : s.icache.wf
  icacheInside : ∀ c ∈ s.icache, c.1 < s.params.icacheBytes
  zeroCell : s.gpr[0] = 0#32
  pcAligned : Aligned s.pc
  targetAligned : Aligned s.branchTarget
  loadReg : s.ld.valid = true → s.ld.reg ≠ 0#5

/-- The state that no step writes stays as power-on leaves it (10_state.md R27, R31 to R34): `hi`, `lo`, `cop2`,
COP0 but SR, CAUSE and EPC, and the bits of SR and CAUSE outside their fields. The exception code is that of no
exception or of arithmetic overflow, CE is 0, and the current mode and enable bits of SR are 0. -/
structure StorageInv (s : State) : Prop where
  hi : s.hi = 0#32
  lo : s.lo = 0#32
  cop2 : ∀ n, readCop2 s n = 0#32
  cop0 : ∀ n, n ≠ srReg → n ≠ causeReg → n ≠ epcReg → readCop0 s n = 0#32
  sr : readCop0 s srReg = 0#32
  cause : readCop0 s causeReg = 0#32 ∨ readCop0 s causeReg = 0x00000030#32 ∨ readCop0 s causeReg = 0x80000030#32

/-- In GFE-CORE no branch is armed and no load is pending (43_control_transfer.md R179; 44_loads.md R212). -/
structure CoreOnlyInv (s : State) : Prop where
  coreOnly : s.params.extJl = false
  noDelaySlot : s.inDelaySlot = false
  noPendingLoad : s.ld.valid = false

/-! ## What an instruction is about to do

`s` is the state after the fetch, as `exec` takes it. -/

/-- The instruction takes an exception: ADD, with checking on, on signed overflow, and no other (42_add.md R151;
60_exceptions.md R232). -/
def traps (s : State) : Instr → Bool
  | .ori _ _ _ => false
  | .add _ rs rt _ => s.settings.overflowCheck && addOverflows (readReg s rs) (readReg s rt)
  | .addu _ _ _ _ => false
  | .j _ => false
  | .lw _ _ _ => false

/-- The instruction is a taken branch: J, where it exists (43_control_transfer.md R180, R181). -/
def branches (s : State) : Instr → Bool
  | .ori _ _ _ => false
  | .add _ _ _ _ => false
  | .addu _ _ _ _ => false
  | .j _ => s.params.extJl
  | .lw _ _ _ => false

/-- The general register the instruction has as its destination, 0 if it has none (the `dst` of 44_loads.md
R205). LW and J have none where they do not exist. -/
def destination (s : State) : Instr → RegIdx
  | .ori rt _ _ => rt
  | .add rd _ _ _ => rd
  | .addu rd _ _ _ => rd
  | .j _ => 0#5
  | .lw rt _ _ => if s.params.extJl then rt else 0#5

/-- The general registers the instruction reads as operands. -/
def sources : Instr → List RegIdx
  | .ori _ rs _ => [rs]
  | .add _ rs rt _ => [rs, rt]
  | .addu _ rs rt _ => [rs, rt]
  | .j _ => []
  | .lw _ rs _ => [rs]

/-- The pending load is cancelled: "the destination register is read, overwritten by another instruction, or
targeted by a new delayed load" (44_loads.md R200, R203 to R206). A destination of 0 has no such effect (R205), a
trapping ADD writes nothing (42_add.md R152), and reads count only where `LOAD_READ_CANCELS` is true. -/
def cancelsLoad (s : State) (i : Instr) : Bool :=
  destination s i != 0#5 &&
    ((destination s i == s.ld.reg && !traps s i) ||
      (s.params.loadReadCancels && (sources i).contains s.ld.reg))

/-- The pending load lands at the end of the step (44_loads.md R207). -/
def loadLands (s : State) (i : Instr) : Bool := s.ld.valid && !cancelsLoad s i

/-! ## What a step leaves -/

/-- `x[r]` after a step whose instruction wrote no register: the pending load's register, if the load lands, holds
its value (44_loads.md R207, R208). -/
def regAfterLoad (s : State) (lands : Bool) (r : RegIdx) : Word :=
  if lands = true ∧ s.ld.reg = r ∧ r ≠ 0#5 then s.ld.value else readReg s r

/-- The event of a pending load that lands (44_loads.md R208). -/
def loadEvents (s : State) (lands : Bool) : List Event :=
  if lands = true ∧ s.ld.reg = s.params.spIndex then [.spWrite (readReg s s.ld.reg) s.ld.value] else []

/-- The sequencing of an instruction that takes neither an exception nor a branch: the next instruction, or the
branch target after a delay slot (43_control_transfer.md R171, rows 1 and 4). -/
structure SequencedOn (s t : State) : Prop where
  pc : t.pc = if s.inDelaySlot then s.branchTarget else s.pc
  normal : t.inDelaySlot = false
  target : t.branchTarget = s.branchTarget

/-- What no instruction writes: the fetch's `code` and `cycle`, `hi` and `lo`, COP2, the settings, the parameters,
the host's data answers, and every byte of the instruction store. -/
structure KeepsStorage (s t : State) : Prop where
  code : t.code = s.code
  cycle : t.cycle = s.cycle
  hi : t.hi = s.hi
  lo : t.lo = s.lo
  cop2 : t.cop2 = s.cop2
  settings : t.settings = s.settings
  params : t.params = s.params
  dataAnswers : t.dataAnswers = s.dataAnswers
  icache : ∀ a, t.icache.read a = s.icache.read a

end Sys2Proof.Machine
end

