-- ==== Sys2Proof/Certificates/Slice0/Obligations.lean ====
section
/-! DEFINITION. The statements for the provers. `exec` acts on the state after the fetch, where `pc` is the
instruction's own offset plus 4 (10_state.md R24); `step` is a whole step. A spec decision named D<n> is a row of
92_eei_decisions.md: the spec's own choice, not the source's. -/

open Sys2Proof Sys2Proof.Machine

/-! ## Encoding -/

/-- Decoding an encoded instruction gives it back, from its word and from its bytes in the store's order: no bit of
an encoding is dropped (30_encoding.md sections 1 and 3; log entry 9 for `shamt`). -/
def Obligations.DecodeOfEncodeGivesTheInstructionBack : Prop :=
  ∀ i : Instr, decode (encode i) = .ok i ∧ decodeBytes (encodeBytes i) = .ok i

/-- Each word has one meaning: encoding what a word decodes to gives the word back (30_encoding.md section 3). For
ADD and ADDU words whose bits 10:6 are not 0 this is the model's choice, not the spec's: `shamt`, to which the spec
gives no meaning, is kept in the instruction so that the word comes back (log entry 9, DESIGN CHOICE). -/
def Obligations.EncodeOfDecodeGivesTheWordBack : Prop :=
  ∀ (w : Word) (i : Instr), decode w = .ok i → encode i = w

/-- The opcode table, row by row: `w` is the instruction of a row exactly when `(w & mask) == match`, with its
operands in the bits the pattern's letters name; no two rows match one word; a word that matches no row is
rejected (30_encoding.md section 3). The numbers are the spec's D1 and D2, and that the rows are disjoint is an
inference the spec marks as its own. -/
def Obligations.DecodeFollowsTheOpcodeTable : Prop :=
  (∀ w : Word,
    (w &&& 0xFC000000#32 = 0x34000000#32 ↔
      decode w = .ok (.ori (w.extractLsb' 16 5) (w.extractLsb' 21 5) (w.extractLsb' 0 16))) ∧
    (w &&& 0xFC00003F#32 = 0x00000020#32 ↔
      decode w = .ok (.add (w.extractLsb' 11 5) (w.extractLsb' 21 5) (w.extractLsb' 16 5) (w.extractLsb' 6 5))) ∧
    (w &&& 0xFC00003F#32 = 0x00000021#32 ↔
      decode w = .ok (.addu (w.extractLsb' 11 5) (w.extractLsb' 21 5) (w.extractLsb' 16 5) (w.extractLsb' 6 5))) ∧
    (w &&& 0xFC000000#32 = 0x08000000#32 ↔ decode w = .ok (.j (w.extractLsb' 0 26))) ∧
    (w &&& 0xFC000000#32 = 0x8C000000#32 ↔
      decode w = .ok (.lw (w.extractLsb' 16 5) (w.extractLsb' 21 5) (w.extractLsb' 0 16)))) ∧
  opcodeTable.Pairwise (fun a b => ∀ w : Word, ¬ (w &&& a.mask = a.pattern ∧ w &&& b.mask = b.pattern)) ∧
  (∀ w : Word, (∀ r ∈ opcodeTable, w &&& r.mask ≠ r.pattern) ↔ ∃ e, decode w = .error e)

/-- 30_encoding.md R73: every field is extracted for every word, said on naturals. -/
def Obligations.DecodeExtractsEveryField : Prop :=
  ∀ w : Word,
    (decodeFields w).op.toNat = w.toNat / 2 ^ 26 ∧
    (decodeFields w).rs.toNat = w.toNat / 2 ^ 21 % 2 ^ 5 ∧
    (decodeFields w).rt.toNat = w.toNat / 2 ^ 16 % 2 ^ 5 ∧
    (decodeFields w).rd.toNat = w.toNat / 2 ^ 11 % 2 ^ 5 ∧
    (decodeFields w).shamt.toNat = w.toNat / 2 ^ 6 % 2 ^ 5 ∧
    (decodeFields w).funct.toNat = w.toNat % 2 ^ 6 ∧
    (decodeFields w).imm.toNat = w.toNat % 2 ^ 16 ∧
    (decodeFields w).target.toNat = w.toNat % 2 ^ 26

/-- Words the spec writes out decode to the instructions it names for them (30_encoding.md section 4;
95_test_vectors.md parts 2 and 3). -/
def Obligations.WordsOfTheSpecDecode : Prop :=
  decode 0x34080022#32 = .ok (.ori Reg.t0 Reg.zero 34) ∧
  decode 0x3528FFFF#32 = .ok (.ori Reg.t0 Reg.t1 0xFFFF) ∧
  decode 0x01095020#32 = .ok (.add Reg.t2 Reg.t0 Reg.t1 0) ∧
  decode 0x01095021#32 = .ok (.addu Reg.t2 Reg.t0 Reg.t1 0) ∧
  decode 0x010950E0#32 = .ok (.add Reg.t2 Reg.t0 Reg.t1 3) ∧
  decode 0x08000004#32 = .ok (.j 4) ∧
  decode 0x8D28FFFC#32 = .ok (.lw Reg.t0 Reg.t1 0xFFFC) ∧
  decode 0x00000000#32 = .error (.unknownFunct 0) ∧
  decode 0xFFFFFFFC#32 = .error (.unknownOpcode 0x3F)

/-- `shamt` has no effect: ADD and ADDU are themselves whatever bits 10:6 hold (30_encoding.md section 3; D38). -/
def Obligations.ShiftAmountHasNoEffect : Prop :=
  ∀ (rd rs rt : RegIdx) (h h' : BitVec 5) (s : State),
    decode (encodeR rs rt rd h 0x20) = .ok (.add rd rs rt h) ∧
    decode (encodeR rs rt rd h 0x21) = .ok (.addu rd rs rt h) ∧
    exec (.add rd rs rt h) s = exec (.add rd rs rt h') s ∧
    exec (.addu rd rs rt h) s = exec (.addu rd rs rt h') s

/-! ## The step -/

/-- A step runs the instruction that the word at `pc` decodes to, on the state the fetch leaves: `events` empty,
`code` the word, `pc` advanced by 4, `cycle` by `CYCLE_BIAS` (40_step_fetch_dispatch.md sections 1 and 2). -/
def Obligations.StepRunsTheDecodedInstruction : Prop :=
  ∀ (s : State) (w : Word) (i : Instr), iFetch s s.pc = some w → decode w = .ok i →
    step s = exec i { s with
      events := [], code := w, pc := s.pc + 4#32, cycle := s.cycle + s.params.cycleBias }

/-- `IFetch` (20_memory.md section 2): at an offset that is a multiple of 4, with its four bytes inside the store, it is
the little-endian word of those bytes; everywhere else the step is `FATAL(FetchOutOfRange)`. Byte order and
outcome are the spec's D3 and D7. -/
def Obligations.FetchIsLittleEndianOrFatal : Prop :=
  ∀ s : State,
    ((Aligned s.pc ∧ s.pc.toNat + 4 ≤ s.params.icacheBytes) →
      ∃ w, iFetch s s.pc = some w ∧
        w.toNat = (s.icache.read s.pc.toNat).toNat + 2 ^ 8 * (s.icache.read (s.pc.toNat + 1)).toNat +
          2 ^ 16 * (s.icache.read (s.pc.toNat + 2)).toNat + 2 ^ 24 * (s.icache.read (s.pc.toNat + 3)).toNat) ∧
    (¬ (Aligned s.pc ∧ s.pc.toNat + 4 ≤ s.params.icacheBytes) →
      iFetch s s.pc = none ∧ step s = .fault (.fetchOutOfRange s.pc))

/-- Whatever the word is, a step that is `OK` has stored the fetched word in `code` and has advanced `cycle` by
exactly `CYCLE_BIAS` (40_step_fetch_dispatch.md section 2; D47). -/
def Obligations.EveryOkStepRecordsCodeAndCycle : Prop :=
  ∀ s t : State, step s = .next t →
    iFetch s s.pc = some t.code ∧ t.cycle = s.cycle + s.params.cycleBias

/-- A step is `FATAL` for the three reasons of 40_step_fetch_dispatch.md section 1, under exactly these conditions,
and it is never refused. -/
def Obligations.StepIsFatalExactlyAsListed : Prop :=
  ∀ s : State,
    (∀ r, step s ≠ .refused r) ∧
    (∀ r, step s = .fault r ↔
      (iFetch s s.pc = none ∧ r = .fetchOutOfRange s.pc) ∨
      (∃ w tgt, iFetch s s.pc = some w ∧ decode w = .ok (.j tgt) ∧ s.params.extJl = true ∧
        s.inDelaySlot = true ∧ r = .branchInDelaySlot s.pc) ∨
      (∃ w rt rs imm, iFetch s s.pc = some w ∧ decode w = .ok (.lw rt rs imm) ∧ s.params.extJl = true ∧
        rt ≠ 0#5 ∧ ¬ Aligned (readReg s rs + imm.signExtend 32) ∧
        r = .misalignedLoad (readReg s rs + imm.signExtend 32)))

/-- An unknown word, and a J or LW word where `EXT_JL` is false, runs as a logged no-op. The step is `OK`; its log
event carries the word, its `op` and its `funct`; a load issued by the step before lands; a delay slot ends at the
branch target; nothing else changes (40_step_fetch_dispatch.md section 7; D33, D43). -/
def Obligations.UnimplementedWordIsALoggedNoOp : Prop :=
  ∀ (s : State) (w : Word), iFetch s s.pc = some w →
    ((∃ e, decode w = .error e) ∨ ∃ i, decode w = .ok i ∧ i.present s.params = false) →
    ∃ t, step s = .next t ∧
      t.events = .logUnknownInstruction w (w.extractLsb' 26 6) (w.extractLsb' 0 6) :: loadEvents s s.ld.valid ∧
      (∀ r, readReg t r = regAfterLoad s s.ld.valid r) ∧
      t.ld = LoadSlot.empty ∧ t.cop0 = s.cop0 ∧ t.dataReads = s.dataReads ∧
      SequencedOn (afterFetch w s) t ∧ KeepsStorage (afterFetch w s) t

/-! ## ORI -/

/-- 41_or_immediate.md R142: ORI completes, in every state, and its target holds `a | i` with the immediate
zero-extended, whatever the target held before and when it is the source too. -/
def Obligations.OriWritesTheOrOfTheZeroExtendedImmediate : Prop :=
  ∀ (s : State) (rt rs : RegIdx) (imm : BitVec 16),
    ∃ t, exec (.ori rt rs imm) s = .next t ∧
      (rt ≠ 0#5 →
        readReg t rt = readReg s rs ||| imm.setWidth 32 ∧
        (readReg t rt).extractLsb' 16 16 = (readReg s rs).extractLsb' 16 16 ∧
        (readReg t rt).extractLsb' 0 16 = (readReg s rs).extractLsb' 0 16 ||| imm)

/-- An ORI, ADDU or LW whose destination is register 0 has no effect of its own: it reads no operand, cancels no
load, reads no memory and emits no event. The load that an older step issued still lands, and the step's
sequencing still runs (40_step_fetch_dispatch.md section 5; 41_or_immediate.md; 90_conflicts.md C3, C5; D19,
D26). -/
def Obligations.DestinationZeroHasNoEffectOfItsOwn : Prop :=
  ∀ (s : State) (i : Instr),
    ((∃ rs imm, i = .ori 0#5 rs imm) ∨ (∃ rs rt h, i = .addu 0#5 rs rt h) ∨
      (∃ rs imm, i = .lw 0#5 rs imm ∧ s.params.extJl = true)) →
    ∃ t, exec i s = .next t ∧
      (∀ r, readReg t r = regAfterLoad s s.ld.valid r) ∧
      t.events = s.events ++ loadEvents s s.ld.valid ∧
      t.ld = LoadSlot.empty ∧ t.cop0 = s.cop0 ∧ t.dataReads = s.dataReads ∧
      SequencedOn s t ∧ KeepsStorage s t

/-! ## ADD and ADDU -/

/-- The overflow condition holds exactly when the signed sum lies outside [−2^31, 2^31 − 1] (42_add.md section 1,
an inference the spec draws from the sign-bit condition). -/
def Obligations.OverflowIsTheSignedSumOutOfRange : Prop :=
  ∀ a b : Word, addOverflows a b = true ↔ a.toInt + b.toInt < -2 ^ 31 ∨ 2 ^ 31 - 1 < a.toInt + b.toInt

/-- ADD completes with the wrapped sum in its destination unless checking is on and the signed sum overflows. COP0
is unchanged, and the only events it may add are `SpWrite`s (42_add.md section 1). -/
def Obligations.AddCommitsTheSumWhenItDoesNotTrap : Prop :=
  ∀ (s : State) (rd rs rt : RegIdx) (h : BitVec 5),
    ¬ (s.settings.overflowCheck = true ∧
      (readReg s rs).toInt + (readReg s rt).toInt ≠ (readReg s rs + readReg s rt).toInt) →
    ∃ t, exec (.add rd rs rt h) s = .next t ∧
      (rd ≠ 0#5 → readReg t rd = readReg s rs + readReg s rt) ∧
      t.cop0 = s.cop0 ∧ t.pc = (if s.inDelaySlot then s.branchTarget else s.pc) ∧
      ∃ es, t.events = s.events ++ es ∧ ∀ e ∈ es, ∃ old new, e = .spWrite old new

/-- 42_add.md R153: with checking off ADD is the non-trapping add, whatever the sum is, and 0x7FFFFFFF + 1 commits
0x80000000. -/
def Obligations.AddWithCheckingOffIsTheNonTrappingAdd : Prop :=
  ∀ (s : State) (rd rs rt : RegIdx) (h : BitVec 5), s.settings.overflowCheck = false →
    exec (.add rd rs rt h) s = exec (.addu rd rs rt h) s ∧
    ∃ t, exec (.add rd rs rt h) s = .next t ∧
      (rd ≠ 0#5 → readReg t rd = readReg s rs + readReg s rt ∧
        (readReg s rs = 0x7FFFFFFF#32 → readReg s rt = 1 → readReg t rd = 0x80000000#32)) ∧
      (∃ es, t.events = s.events ++ es ∧ ∀ e ∈ es, ∃ old new, e = .spWrite old new)

/-- 42_add.md R161: ADDU completes in every state and wraps modulo 2^32, with no exception and no log event,
whatever the overflow-checking setting is. -/
def Obligations.AdduWrapsWithoutException : Prop :=
  ∀ (s : State) (rd rs rt : RegIdx) (h : BitVec 5),
    ∃ t, exec (.addu rd rs rt h) s = .next t ∧
      (rd ≠ 0#5 → (readReg t rd).toNat = ((readReg s rs).toNat + (readReg s rt).toNat) % 2 ^ 32) ∧
      t.cop0 = s.cop0 ∧ t.pc = (if s.inDelaySlot then s.branchTarget else s.pc) ∧
      ∃ es, t.events = s.events ++ es ∧ ∀ e ∈ es, ∃ old new, e = .spWrite old new

/-- ADD with checking on and overflow takes the exception, with any destination, 0 too: the pc is the vector; EPC
is the ADD's own offset, or the branch's in a delay slot where `EPC_BD_ADJUST` is true; SR is pushed; CAUSE records
code 12, BD and CE = 0; the destination is not written; the diagnostic comes first and carries the ADD's offset; a
pending branch is discarded; a pending load lands unless an operand read cancelled it (42_add.md section 1;
60_exceptions.md section 2; D9 to D14, D20, D22, D23, D39, D45). -/
def Obligations.AddTrapsOnCheckedOverflow : Prop :=
  ∀ (s : State) (rd rs rt : RegIdx) (h : BitVec 5), s.settings.overflowCheck = true →
    (readReg s rs).toInt + (readReg s rt).toInt ≠ (readReg s rs + readReg s rt).toInt →
    ∃ t, exec (.add rd rs rt h) s = .next t ∧
      t.pc = s.params.excVector ∧ t.inDelaySlot = false ∧ t.branchTarget = s.branchTarget ∧
      readCop0 t 14#5 = (if s.params.epcBdAdjust = true ∧ s.inDelaySlot = true then s.pc - 8#32 else s.pc - 4#32) ∧
      readCop0 t 12#5 = (readCop0 s 12#5 &&& 0xFFFFFFC0#32) ||| ((readCop0 s 12#5 <<< 2) &&& 0x0000003C#32) ∧
      readCop0 t 13#5 =
        (readCop0 s 13#5 &&& 0x4FFFFF83#32) ||| (if s.inDelaySlot then 0x80000000#32 else 0) ||| 0x00000030#32 ∧
      (∀ n, n ≠ 12#5 → n ≠ 13#5 → n ≠ 14#5 → readCop0 t n = readCop0 s n) ∧
      (∀ r, readReg t r = regAfterLoad s (loadLands s (.add rd rs rt h)) r) ∧
      t.ld = LoadSlot.empty ∧
      t.events = s.events ++
        .logArithmeticOverflow (s.pc - 4#32) :: loadEvents s (loadLands s (.add rd rs rt h)) ∧
      t.dataReads = s.dataReads ∧ KeepsStorage s t

/-! ## Exception entry -/

/-- EPC receives the faulting address, less 4 where `EPC_BD_ADJUST` is true and the fault is in a delay slot
(60_exceptions.md section 2). Register 14 and the adjustment are the spec's D9 and D11. -/
def Obligations.ExceptionEntrySavesTheFaultingAddress : Prop :=
  ∀ (s : State) (k : ExceptionKind) (bd cop : Bool),
    (s.params.epcBdAdjust = true → bd = true → readCop0 (takeException k bd cop s) 14#5 = s.pc - 4#32) ∧
    ((s.params.epcBdAdjust = false ∨ bd = false) → readCop0 (takeException k bd cop s) 14#5 = s.pc)

/-- SR on exception entry, bit by bit: bits 3:0 move to bits 5:2, bits 1:0 become 0, bits 31:6 are kept
(60_exceptions.md section 2). The layout is the spec's D12. -/
def Obligations.ExceptionEntryPushesTheStatusStack : Prop :=
  ∀ (s : State) (k : ExceptionKind) (bd cop : Bool) (b : Nat), b < 32 →
    (readCop0 (takeException k bd cop s) 12#5).getLsbD b =
      if b < 2 then false
      else if b < 6 then (readCop0 s 12#5).getLsbD (b - 2)
      else (readCop0 s 12#5).getLsbD b

/-- CAUSE on exception entry, field by field: BD in bit 31, CE in bits 29:28 (0 unless the fault is a
coprocessor's), the exception code, 12, in bits 6:2, and every other bit as before (60_exceptions.md section 2). The
layout is the spec's D13, the code its D10, CE its D14. -/
def Obligations.ExceptionEntryRecordsTheCause : Prop :=
  ∀ (s : State) (bd cop : Bool),
    let c := readCop0 (takeException .arithmeticOverflow bd cop s) 13#5
    c.getLsbD 31 = bd ∧
    c.extractLsb' 28 2 = (if cop then s.params.ceForCopFault else 0#2) ∧
    c.extractLsb' 2 5 = 12 ∧
    (∀ b, b < 32 → b ≠ 31 → b ≠ 28 → b ≠ 29 → (b < 2 ∨ 6 < b) → c.getLsbD b = (readCop0 s 13#5).getLsbD b)

/-- Exception entry redirects `pc` to the one fixed vector and writes no COP0 register but 12, 13 and 14, and no
other field of the state (60_exceptions.md section 2; 10_state.md section 5; D8). -/
def Obligations.ExceptionEntryRedirectsAndWritesNothingElse : Prop :=
  ∀ (s : State) (k : ExceptionKind) (bd cop : Bool),
    let t := takeException k bd cop s
    t.pc = s.params.excVector ∧
    (∀ n, n ≠ 12#5 → n ≠ 13#5 → n ≠ 14#5 → readCop0 t n = readCop0 s n) ∧
    { t with pc := s.pc, cop0 := s.cop0 } = s

/-- An exception inside a handler is taken like any other: EPC and CAUSE hold the new one's values, and SR is
pushed again, which leaves the first SR's bits 1:0 in bits 5:4 and loses the rest of bits 5:0 (60_exceptions.md
section 5; D30). -/
def Obligations.NestedExceptionOverwritesTheFirst : Prop :=
  ∀ (s t : State) (bd bd' cop cop' : Bool),
    t.cop0 = (takeException .arithmeticOverflow bd cop s).cop0 → t.params = s.params →
    let u := takeException .arithmeticOverflow bd' cop' t
    readCop0 u 14#5 = (if s.params.epcBdAdjust = true ∧ bd' = true then t.pc - 4#32 else t.pc) ∧
    readCop0 u 13#5 = recordedCause (readCop0 s 13#5) .arithmeticOverflow bd'
      (if cop' then s.params.ceForCopFault else 0#2) ∧
    (readCop0 u 12#5).extractLsb' 4 2 = (readCop0 s 12#5).extractLsb' 0 2 ∧
    (readCop0 u 12#5).extractLsb' 0 4 = 0#4 ∧
    (readCop0 u 12#5).extractLsb' 6 26 = (readCop0 s 12#5).extractLsb' 6 26

/-- Only ADD raises an exception (60_exceptions.md sections 1 and 2; D8, D10). A step that is `OK` leaves COP0 as it was unless its word
is an ADD, checking is on, and the signed sum overflows; and then the step's pc is the vector. -/
def Obligations.OnlyTheTrappingAddRaisesAnException : Prop :=
  ∀ s t : State, step s = .next t →
    (t.cop0 = s.cop0 ∨
      ∃ w rd rs rt h, iFetch s s.pc = some w ∧ decode w = .ok (.add rd rs rt h) ∧
        s.settings.overflowCheck = true ∧
        (readReg s rs).toInt + (readReg s rt).toInt ≠ (readReg s rs + readReg s rt).toInt ∧
        t.pc = s.params.excVector) ∧
    (∀ a, .logArithmeticOverflow a ∈ t.events →
      a = s.pc ∧ (readCop0 t 13#5).extractLsb' 2 5 = 12 ∧ t.pc = s.params.excVector)

/-! ## The branch delay-slot controller and J -/

/-- 43_control_transfer.md R171, row by row, for every instruction, and for a word that is none. -/
def Obligations.DelaySlotControllerTransitions : Prop :=
  ∀ (s : State) (i : Instr),
    (∀ t, exec i s = .next t → s.inDelaySlot = false → branches s i = false → traps s i = false →
      t.inDelaySlot = false ∧ t.pc = s.pc ∧ t.branchTarget = s.branchTarget) ∧
    (∀ t, exec i s = .next t → s.inDelaySlot = false → branches s i = true →
      t.inDelaySlot = true ∧ t.pc = s.pc ∧
        ∃ tgt, i = .j tgt ∧ t.branchTarget = s.pc.extractLsb' 28 4 ++ tgt ++ 0#2) ∧
    (∀ t, exec i s = .next t → traps s i = true →
      t.inDelaySlot = false ∧ t.pc = s.params.excVector ∧ t.branchTarget = s.branchTarget) ∧
    (∀ t, exec i s = .next t → s.inDelaySlot = true → branches s i = false → traps s i = false →
      t.inDelaySlot = false ∧ t.pc = s.branchTarget ∧ t.branchTarget = s.branchTarget) ∧
    (s.inDelaySlot = true → branches s i = true → exec i s = .fault (.branchInDelaySlot (s.pc - 4#32))) ∧
    (∀ t, execUnimplemented s = .next t →
      t.inDelaySlot = false ∧ t.pc = (if s.inDelaySlot then s.branchTarget else s.pc) ∧
        t.branchTarget = s.branchTarget)

/-- J, where it exists and is not in a delay slot, completes: it arms `{pc[31:28], target, 00}`, said on naturals,
and leaves `pc` at the delay slot; it reads and writes no register, and a load that an older step issued lands
(43_control_transfer.md section 2; D25). -/
def Obligations.JumpArmsTheDelaySlot : Prop :=
  ∀ (s : State) (tgt : BitVec 26), s.params.extJl = true → s.inDelaySlot = false →
    ∃ t, exec (.j tgt) s = .next t ∧
      t.inDelaySlot = true ∧ t.pc = s.pc ∧
      t.branchTarget.toNat = s.pc.toNat / 2 ^ 28 * 2 ^ 28 + tgt.toNat * 4 ∧
      (∀ r, readReg t r = regAfterLoad s s.ld.valid r) ∧
      t.events = s.events ++ loadEvents s s.ld.valid ∧
      t.ld = LoadSlot.empty ∧ t.cop0 = s.cop0 ∧ t.dataReads = s.dataReads ∧ KeepsStorage s t

/-- A J in a delay slot is `FATAL(BranchInDelaySlot)` with the J's own offset (43_control_transfer.md section 1;
D27). -/
def Obligations.JumpInADelaySlotIsFatal : Prop :=
  ∀ (s : State) (w : Word) (tgt : BitVec 26), s.params.extJl = true → s.inDelaySlot = true →
    iFetch s s.pc = some w → decode w = .ok (.j tgt) → step s = .fault (.branchInDelaySlot s.pc)

/-- A taken branch spans two steps: after the J's step the pc is the delay slot's offset; the instruction there,
unless it traps, runs with the ordinary sequencing and the pc is the target only after it. If it traps, the pc is
the vector and the target is never applied (43_control_transfer.md section 1; 90_conflicts.md C6; D23). -/
def Obligations.JumpTakesEffectAfterTheDelaySlot : Prop :=
  ∀ (s s₁ s₂ : State) (w w₁ : Word) (tgt : BitVec 26), s.params.extJl = true → s.inDelaySlot = false →
    iFetch s s.pc = some w → decode w = .ok (.j tgt) → step s = .next s₁ →
    iFetch s₁ s₁.pc = some w₁ → step s₁ = .next s₂ →
    s₁.pc = s.pc + 4#32 ∧ (afterFetch w₁ s₁).pc = s.pc + 8#32 ∧ s₂.inDelaySlot = false ∧
    ((∀ i, decode w₁ = .ok i → traps (afterFetch w₁ s₁) i = false) →
      s₂.pc = (s.pc + 4#32).extractLsb' 28 4 ++ tgt ++ 0#2) ∧
    ((∃ i, decode w₁ = .ok i ∧ traps (afterFetch w₁ s₁) i = true) → s₂.pc = s.params.excVector)

/-- `pc` after an `OK` step is the next offset, the vector (exactly when the word is a trapping ADD), or the branch
target (exactly when the step was a delay slot that did not trap) (10_state.md section 3). -/
def Obligations.PcChangesOnlyAsListed : Prop :=
  ∀ (s t : State) (w : Word), iFetch s s.pc = some w → step s = .next t →
    let trapped := ∃ i, decode w = .ok i ∧ traps s i = true
    (trapped → t.pc = s.params.excVector) ∧
    (¬ trapped → s.inDelaySlot = true → t.pc = s.branchTarget) ∧
    (¬ trapped → s.inDelaySlot = false → t.pc = s.pc + 4#32)

/-! ## Delayed loads and LW -/

/-- LW, where it exists, with a destination other than 0 and an address that is a multiple of 4, completes: one
read of data memory at `x[rs] + sext(imm)`; its answer becomes the pending load; the destination keeps its value.
Where the host has fixed no answer for the address, the answer is the free value, whatever it is (44_loads.md
section 2; D26; log entry 3). -/
def Obligations.LoadWordIssuesADelayedLoad : Prop :=
  ∀ (s : State) (rt rs : RegIdx) (imm : BitVec 16), s.params.extJl = true → rt ≠ 0#5 →
    Aligned (readReg s rs + imm.signExtend 32) →
    ∃ t, exec (.lw rt rs imm) s = .next t ∧
      t.ld = ⟨true, rt, dataWordAt s (readReg s rs + imm.signExtend 32)⟩ ∧
      (s.dataAnswers.lookup (readReg s rs + imm.signExtend 32) = none →
        t.ld.value = Config.freeDataWord s.dataReads (readReg s rs + imm.signExtend 32)) ∧
      t.dataReads = s.dataReads + 1 ∧
      readReg t rt = readReg s rt ∧
      (∀ r, readReg t r = regAfterLoad s (loadLands s (.lw rt rs imm)) r) ∧
      t.events = s.events ++ loadEvents s (loadLands s (.lw rt rs imm)) ∧
      t.cop0 = s.cop0 ∧ SequencedOn s t ∧ KeepsStorage s t

/-- An LW at an address that is no multiple of 4, with a destination other than 0, is `FATAL(MisalignedLoad)` with
that address (44_loads.md section 2; D26). -/
def Obligations.MisalignedLoadWordIsFatal : Prop :=
  ∀ (s : State) (rt rs : RegIdx) (imm : BitVec 16), s.params.extJl = true → rt ≠ 0#5 →
    (readReg s rs + imm.signExtend 32).toNat % 4 ≠ 0 →
    exec (.lw rt rs imm) s = .fault (.misalignedLoad (readReg s rs + imm.signExtend 32))

/-- A load that the step before issued lands at the end of this step after any instruction that does not cancel
it. One that an operand read or a trap's operand read cancels is gone and leaves the register as it was. One that a
new LW to the same register cancels is replaced by the new one. (44_loads.md section 1; D18, D19, D20, D39.) An
instruction that writes the register is the matter of `WriterWinsOverAPendingLoad`. -/
def Obligations.PendingLoadLandsUnlessCancelled : Prop :=
  ∀ (s t : State) (i : Instr), exec i s = .next t → s.ld.valid = true → s.ld.reg ≠ 0#5 →
    (cancelsLoad s i = false → readReg t s.ld.reg = s.ld.value) ∧
    (cancelsLoad s i = true → (traps s i = true ∨ destination s i ≠ s.ld.reg) →
      readReg t s.ld.reg = readReg s s.ld.reg) ∧
    (∀ rs imm, i = .lw s.ld.reg rs imm → s.params.extJl = true →
      readReg t s.ld.reg = readReg s s.ld.reg ∧ t.ld.valid = true ∧ t.ld.reg = s.ld.reg)

/-- 44_loads.md R204: after an instruction that writes the register of a pending load, the register holds that
instruction's value, never the stale load's, and nothing is pending. -/
def Obligations.WriterWinsOverAPendingLoad : Prop :=
  ∀ (s : State) (r rs rt : RegIdx) (imm : BitVec 16) (h : BitVec 5) (v : Word), r ≠ 0#5 →
    s.ld = ⟨true, r, v⟩ →
    (∃ t, exec (.ori r rs imm) s = .next t ∧ readReg t r = readReg s rs ||| imm.setWidth 32 ∧
      t.ld.valid = false) ∧
    (∃ t, exec (.addu r rs rt h) s = .next t ∧ readReg t r = readReg s rs + readReg s rt ∧
      t.ld.valid = false) ∧
    (traps s (.add r rs rt h) = false →
      ∃ t, exec (.add r rs rt h) s = .next t ∧ readReg t r = readReg s rs + readReg s rt ∧
        t.ld.valid = false)

/-- An operand read of a pending load's register, by an ORI, ADDU, ADD or LW whose destination is neither 0 nor that
register, sees the old value. Where `LOAD_READ_CANCELS` is true it also discards the load for good, and does so when
the reading ADD traps; where it is false the load lands all the same. After an LW only its own load is pending, after
the others nothing is. (44_loads.md section 1, the value of this spec and the alternative it offers; D18, D39.) -/
def Obligations.ReadingAPendingRegisterDiscardsTheLoad : Prop :=
  ∀ (s : State) (d r : RegIdx) (v : Word), d ≠ 0#5 → r ≠ 0#5 → d ≠ r → s.ld = ⟨true, r, v⟩ →
    let left := if s.params.loadReadCancels then readReg s r else v
    (∀ imm : BitVec 16, ∃ t, exec (.ori d r imm) s = .next t ∧
      readReg t d = readReg s r ||| imm.setWidth 32 ∧ t.ld.valid = false ∧ readReg t r = left) ∧
    (∀ (rs rt : RegIdx) (h : BitVec 5), r = rs ∨ r = rt →
      (∃ t, exec (.addu d rs rt h) s = .next t ∧
        readReg t d = readReg s rs + readReg s rt ∧ t.ld.valid = false ∧ readReg t r = left) ∧
      (∃ t, exec (.add d rs rt h) s = .next t ∧
        readReg t d = (if traps s (.add d rs rt h) then readReg s d else readReg s rs + readReg s rt) ∧
        t.ld.valid = false ∧ readReg t r = left)) ∧
    (∀ imm : BitVec 16, s.params.extJl = true → Aligned (readReg s r + imm.signExtend 32) →
      ∃ t, exec (.lw d r imm) s = .next t ∧
        t.ld = ⟨true, d, dataWordAt s (readReg s r + imm.signExtend 32)⟩ ∧
        readReg t d = readReg s d ∧ readReg t r = left)

/-- A loaded value is visible from the second step on: the step after the LW runs with the register's old value,
and, if its instruction neither names the register as a destination nor reads it, the register holds the loaded
value after it (44_loads.md section 1; 70_reset_and_hazards.md section 3). -/
def Obligations.LoadedValueIsVisibleFromTheSecondStep : Prop :=
  ∀ (s s₁ s₂ : State) (w w₁ : Word) (rt rs : RegIdx) (imm : BitVec 16),
    s.params.extJl = true → rt ≠ 0#5 → iFetch s s.pc = some w → decode w = .ok (.lw rt rs imm) →
    step s = .next s₁ → iFetch s₁ s₁.pc = some w₁ → step s₁ = .next s₂ →
    readReg (afterFetch w₁ s₁) rt = readReg s rt ∧
    ((∀ i, decode w₁ = .ok i → destination s₁ i ≠ rt ∧ rt ∉ sources i) →
      readReg s₂ rt = dataWordAt s (readReg s rs + imm.signExtend 32))

/-! ## The write-commit protocol -/

/-- 10_state.md R22: `x[0]` reads 0 at all times, and a write to it changes nothing and has no side effect. -/
def Obligations.RegisterZeroIsHardwired : Prop :=
  (∀ s : State, readReg s 0#5 = 0#32) ∧
  (∀ (s : State) (v : Word), writeReg 0#5 v s = s) ∧
  (∀ (c : StepCtx) (v : Word), writeGPR 0#5 v c = c) ∧
  (∀ (s t : State), step s = .next t → readReg t 0#5 = 0#32)

/-- 40_step_fetch_dispatch.md R114, R115: a write to a register other than 0 cancels a load pending on it and no
other, tells the interceptor the old and the new value exactly when it is the stack pointer, and commits the value,
leaving every other register alone. -/
def Obligations.WriteCommitProtocol : Prop :=
  ∀ (c : StepCtx) (r : RegIdx) (v : Word),
    (r = 0#5 → writeGPR r v c = c) ∧
    (r ≠ 0#5 →
      (writeGPR r v c).old =
        (if c.old.valid = true ∧ c.old.reg = r then ⟨false, c.old.reg, c.old.value⟩ else c.old) ∧
      (writeGPR r v c).st.events =
        c.st.events ++ (if r = c.st.params.spIndex then [.spWrite (readReg c.st r) v] else []) ∧
      readReg (writeGPR r v c).st r = v ∧
      (∀ r', r' ≠ r → readReg (writeGPR r v c).st r' = readReg c.st r') ∧
      { (writeGPR r v c).st with gpr := c.st.gpr, events := c.st.events } = c.st ∧
      (writeGPR r v c).new = c.new ∧ (writeGPR r v c).ds = c.ds ∧
      (writeGPR r v c).exc = c.exc ∧ (writeGPR r v c).arm = c.arm)

/-- An ORI, ADDU or ADD that writes the stack pointer emits one `SpWrite` with the value held before and the value
written, and no other event (40_step_fetch_dispatch.md section 6; 41_or_immediate.md; D16, D21). -/
def Obligations.StackPointerWritesAreIntercepted : Prop :=
  ∀ (s : State) (rs rt : RegIdx) (imm : BitVec 16) (h : BitVec 5), s.params.spIndex ≠ 0#5 →
    let sp := s.params.spIndex
    (∃ t, exec (.ori sp rs imm) s = .next t ∧
      t.events = s.events ++ [.spWrite (readReg s sp) (readReg t sp)]) ∧
    (∃ t, exec (.addu sp rs rt h) s = .next t ∧
      t.events = s.events ++ [.spWrite (readReg s sp) (readReg t sp)]) ∧
    (traps s (.add sp rs rt h) = false →
      ∃ t, exec (.add sp rs rt h) s = .next t ∧
        t.events = s.events ++ [.spWrite (readReg s sp) (readReg t sp)])

/-! ## Frames -/

/-- What ORI, ADD and ADDU leave unchanged when they do not trap: every register but the destination and that of a
load that lands, COP0, the branch target, the data port, and all of `KeepsStorage`, every byte of the store
included. Nothing is pending afterwards. The events they add are exactly the instruction's own `SpWrite`, when its
destination is the stack pointer, and then that of an older load that lands on the stack pointer.
(40_step_fetch_dispatch.md sections 6 and 8; 41_or_immediate.md; 42_add.md; 44_loads.md section 1; D21, D46.) -/
def Obligations.FrameOfTheRegisterInstructions : Prop :=
  ∀ (s t : State) (i : Instr),
    ((∃ rt rs imm, i = .ori rt rs imm) ∨ (∃ rd rs rt h, i = .add rd rs rt h) ∨
      (∃ rd rs rt h, i = .addu rd rs rt h)) →
    traps s i = false → exec i s = .next t →
    (∀ r, r ≠ destination s i → readReg t r = regAfterLoad s (loadLands s i) r) ∧
    t.events = s.events ++
      (if destination s i ≠ 0#5 ∧ destination s i = s.params.spIndex
       then [.spWrite (readReg s s.params.spIndex) (readReg t s.params.spIndex)] else []) ++
      loadEvents s (loadLands s i) ∧
    t.cop0 = s.cop0 ∧ t.branchTarget = s.branchTarget ∧ t.dataReads = s.dataReads ∧
    t.ld = LoadSlot.empty ∧ KeepsStorage s t

/-- What J and LW leave unchanged, where they exist and complete: every register but that of an older load that
lands, COP0, and all of `KeepsStorage`, every byte of the store included. J leaves the data port alone, and LW the
branch target. (43_control_transfer.md section 2; 44_loads.md section 2.) -/
def Obligations.FrameOfJumpAndLoadWord : Prop :=
  ∀ (s t : State) (i : Instr), ((∃ tgt, i = .j tgt) ∨ (∃ rt rs imm, i = .lw rt rs imm)) →
    s.params.extJl = true → exec i s = .next t →
    (∀ r, readReg t r = regAfterLoad s (loadLands s i) r) ∧
    t.cop0 = s.cop0 ∧ KeepsStorage s t ∧
    ((∃ tgt, i = .j tgt) → t.dataReads = s.dataReads ∧ t.ld = LoadSlot.empty) ∧
    ((∃ rt rs imm, i = .lw rt rs imm) → t.branchTarget = s.branchTarget)

/-- Whatever its word is, no step writes `hi`, `lo`, COP2, COP0 but for registers 12, 13 and 14, the settings, the
parameters, or a byte of the instruction store (10_state.md sections 4 to 6; 20_memory.md section 4). -/
def Obligations.NoStepWritesStorage : Prop :=
  ∀ s t : State, step s = .next t →
    t.hi = s.hi ∧ t.lo = s.lo ∧ t.cop2 = s.cop2 ∧ t.settings = s.settings ∧ t.params = s.params ∧
    t.dataAnswers = s.dataAnswers ∧ (∀ a, t.icache.read a = s.icache.read a) ∧
    (∀ n, n ≠ 12#5 → n ≠ 13#5 → n ≠ 14#5 → readCop0 t n = readCop0 s n)

/-- No step reads `code`, `cycle`, `hi`, `lo`, COP2 or the last step's events: with any other values there, the
step does the same, and only what it adds to `cycle` and what it keeps shows them (10_state.md section 4;
40_step_fetch_dispatch.md section 8). The data memory's answer is an input of the step in the spec; that the two
steps compared get the same free draw for an LW is the model's choice, not the spec's (log entry 3, DESIGN CHOICE,
unsafe for a comparison of two runs). -/
def Obligations.StepDoesNotReadTheObservationalState : Prop :=
  ∀ (s t : State) (code cycle hi lo : Word) (cop2 : Vector Word 32) (es : List Event),
    step s = .next t →
    step { s with code := code, cycle := cycle, hi := hi, lo := lo, cop2 := cop2, events := es } =
      .next { t with cycle := cycle + s.params.cycleBias, hi := hi, lo := lo, cop2 := cop2 }

/-! ## Invariants -/

/-- Every step keeps the invariant of the machine's states. -/
def Obligations.StepKeepsTheInvariant : Prop :=
  ∀ s t : State, Inv s → step s = .next t → Inv t

/-- Every host operation keeps it: power-on and power-off, a write of the store, of the settings, of the data
memory's answers, and placing a word at `pc` (70_reset_and_hazards.md section 4). -/
def Obligations.HostOperationsKeepTheInvariant : Prop :=
  ∀ s : State, Inv s →
    Inv (powerOn s) ∧ Inv (powerOff s) ∧ (∀ v, Inv (writeSettings v s)) ∧ (∀ a v, Inv (answerData a v s)) ∧
    (∀ o b s', writeICache o b s = some s' → Inv s') ∧ (∀ nbits w, Inv (s.withFetchWord nbits w))

/-- What no step writes stays as power-on leaves it (10_state.md sections 4 and 5; 93_implementation_defined.md
G9). -/
def Obligations.StepKeepsTheStorageInvariant : Prop :=
  ∀ s t : State, StorageInv s → step s = .next t → StorageInv t

/-- In GFE-CORE no branch is ever armed and no load is ever pending (43_control_transfer.md section 1; 44_loads.md
section 2, inferences the spec marks as its own). -/
def Obligations.StepKeepsTheCoreOnlyInvariant : Prop :=
  ∀ s t : State, CoreOnlyInv s → step s = .next t → CoreOnlyInv t

/-- The reset state meets the invariants, for every choice of the parameters that meets their constraints, and
`State.reset`'s own choice does (log entry 2). -/
def Obligations.ResetMeetsTheInvariants : Prop :=
  (∀ p : Params, p.wf → Inv (State.zeroed p) ∧ StorageInv (State.zeroed p)) ∧
  Inv State.reset ∧ StorageInv State.reset ∧ CoreOnlyInv State.reset

/-! ## Reset and the host -/

/-- Power-on makes every field zero, from any state, and power-off does the same; each is idempotent
(70_reset_and_hazards.md section 1; D40, D42). -/
def Obligations.PowerOnZeroesTheProcessorState : Prop :=
  ∀ s : State,
    let t := powerOn s
    t.pc = 0 ∧ t.code = 0 ∧ t.cycle = 0 ∧ t.hi = 0 ∧ t.lo = 0 ∧
    (∀ r, readReg t r = 0) ∧ (∀ n, readCop0 t n = 0) ∧ (∀ n, readCop2 t n = 0) ∧
    (∀ a, t.icache.read a = 0) ∧ t.inDelaySlot = false ∧ t.settings.overflowCheck = false ∧
    t.branchTarget = 0 ∧ t.ld = ⟨false, 0, 0⟩ ∧ powerOff s = t ∧ powerOn t = t ∧ powerOff t = t

/-- The reset state is the one power-on leaves, with nothing placed in the store (70_reset_and_hazards.md section
1). -/
def Obligations.ResetIsTheStatePowerOnLeaves : Prop :=
  powerOn State.reset = State.reset ∧ State.reset.pc = 0 ∧ State.reset.icache = [] ∧
  (∀ s : State, s.params = Config.params → s.dataAnswers = [] → s.dataReads = 0 → powerOn s = State.reset)

/-- The host's write of the store (20_memory.md section 2; D32). The host writes one byte of the store, exactly at an offset inside it; the byte is read back
there, every other byte and every other field is as before, and the next fetch of a word sees the write. -/
def Obligations.HostWriteIsSeenByTheNextFetch : Prop :=
  ∀ (s : State) (o : Nat) (b : Byte), s.icache.wf →
    (s.params.icacheBytes ≤ o → writeICache o b s = none) ∧
    (o < s.params.icacheBytes →
      ∃ s', writeICache o b s = some s' ∧ { s' with icache := s.icache } = s ∧
        (∀ a, s'.icache.read a = if a = o then b else s.icache.read a) ∧
        (∀ (a : Word) (k : Nat), k < 4 → a.toNat + k = o → Aligned a → a.toNat + 4 ≤ s.params.icacheBytes →
          ∃ w w', iFetch s a = some w ∧ iFetch s' a = some w' ∧ w'.extractLsb' (8 * k) 8 = b ∧
            ∀ j, j < 4 → j ≠ k → w'.extractLsb' (8 * j) 8 = w.extractLsb' (8 * j) 8))

/-- The instruction store has one form for each content: writes keep the canonical form, and two stores in that
form that read alike are equal. -/
def Obligations.InstructionStoreIsCanonical : Prop :=
  (∀ (m : Memory) (a : Nat) (b : Byte), m.wf → (m.write a b).wf) ∧
  (∀ m m' : Memory, m.wf → m'.wf → (∀ a, m.read a = m'.read a) → m = m')

/-- The register dump shows `code`, `pc`, the general registers in 4 rows of 8, row `k` holding `x[8k]` to
`x[8k+7]`, then `hi` and `lo` (70_reset_and_hazards.md section 4; D34). -/
def Obligations.RegisterDumpShowsTheRegisters : Prop :=
  ∀ s : State,
    (registerDump s).code = s.code ∧ (registerDump s).pc = s.pc ∧
    (registerDump s).hi = s.hi ∧ (registerDump s).lo = s.lo ∧
    (registerDump s).rows.length = 4 ∧
    (∀ row ∈ (registerDump s).rows, row.length = 8) ∧
    (∀ r : RegIdx, (registerDump s).rows[r.toNat / 8]?.bind (·[r.toNat % 8]?) = some (readReg s r))

/-- A word placed at `pc` for the next step is the word that step fetches, whatever the word is, in any state whose
`pc` can be fetched from; where it encodes an instruction, the step runs that instruction (log entry 14). -/
def Obligations.PlacedWordIsTheNextInstruction : Prop :=
  ∀ s : State, s.icache.wf → Aligned s.pc → s.pc.toNat + 4 ≤ s.params.icacheBytes →
    (∀ w : Word, (s.withFetchWord 32 w.toNat).pc = s.pc ∧ iFetch (s.withFetchWord 32 w.toNat) s.pc = some w) ∧
    (∀ i : Instr, step (s.withFetchWord 32 (encode i).toNat) =
      exec i (afterFetch (encode i) (s.withFetchWord 32 (encode i).toNat)))

/-- What the host observes of a run of `n` steps: the run's state, and the events of its steps in order
(70_reset_and_hazards.md section 4). -/
def Obligations.ObservedRunIsTheRunWithItsEvents : Prop :=
  (∀ (n : Nat) (s t : State), Sys2Proof.core.run n s = .next t ↔ ∃ es, observeRun n s = .next (t, es)) ∧
  (∀ (n : Nat) (s : State) (r : Fault), Sys2Proof.core.run n s = .fault r ↔ observeRun n s = .fault r) ∧
  (∀ (n : Nat) (s s' t : State) (es : List Event), observeRun n s = .next (s', es) → step s' = .next t →
    observeRun (n + 1) s = .next (t, es ++ t.events))
end

