-- ==== Sys2Proof/Laws/Decode.lean ====
section
/-! SUPPORT. The slices of an encoded word, a word put together from its slices, and what a row's mask tests
(30_encoding.md R72, R73, R78). -/

namespace Sys2Proof

/-- The slices of an R-format word are its fields. -/
theorem encodeR_slices (rs rt rd : RegIdx) (shamt : BitVec 5) (funct : BitVec 6) :
    (encodeR rs rt rd shamt funct).extractLsb' 26 6 = 0x00#6 ∧
    (encodeR rs rt rd shamt funct).extractLsb' 21 5 = rs ∧
    (encodeR rs rt rd shamt funct).extractLsb' 16 5 = rt ∧
    (encodeR rs rt rd shamt funct).extractLsb' 11 5 = rd ∧
    (encodeR rs rt rd shamt funct).extractLsb' 6 5 = shamt ∧
    (encodeR rs rt rd shamt funct).extractLsb' 0 6 = funct := by
  refine ⟨?_, ?_, ?_, ?_, ?_, ?_⟩ <;>
  · apply BitVec.eq_of_getLsbD_eq
    intro i hi
    simp only [encodeR, BitVec.getLsbD_extractLsb', BitVec.getLsbD_append, hi, decide_true, Bool.true_and]
    repeat' split
    all_goals first | (exfalso; omega) | (congr 1; omega)

/-- The slices of an I-format word are its fields. -/
theorem encodeI_slices (op : BitVec 6) (rs rt : RegIdx) (imm : BitVec 16) :
    (encodeI op rs rt imm).extractLsb' 26 6 = op ∧
    (encodeI op rs rt imm).extractLsb' 21 5 = rs ∧
    (encodeI op rs rt imm).extractLsb' 16 5 = rt ∧
    (encodeI op rs rt imm).extractLsb' 0 16 = imm := by
  refine ⟨?_, ?_, ?_, ?_⟩ <;>
  · apply BitVec.eq_of_getLsbD_eq
    intro i hi
    simp only [encodeI, BitVec.getLsbD_extractLsb', BitVec.getLsbD_append, hi, decide_true, Bool.true_and]
    repeat' split
    all_goals first | (exfalso; omega) | (congr 1; omega)

/-- The slices of a J-format word are its fields. -/
theorem encodeJ_slices (op : BitVec 6) (target : BitVec 26) :
    (encodeJ op target).extractLsb' 26 6 = op ∧ (encodeJ op target).extractLsb' 0 26 = target := by
  refine ⟨?_, ?_⟩ <;>
  · apply BitVec.eq_of_getLsbD_eq
    intro i hi
    simp only [encodeJ, BitVec.getLsbD_extractLsb', BitVec.getLsbD_append, hi, decide_true, Bool.true_and]
    repeat' split
    all_goals first | (exfalso; omega) | (congr 1; omega)

/-- A word with `op` 0x00 is the R-format word of its slices. -/
theorem encodeR_of_slices (w : Word) (h : w.extractLsb' 26 6 = 0x00#6) :
    encodeR (w.extractLsb' 21 5) (w.extractLsb' 16 5) (w.extractLsb' 11 5) (w.extractLsb' 6 5)
      (w.extractLsb' 0 6) = w := by
  unfold encodeR
  rw [← h]
  apply BitVec.eq_of_getLsbD_eq
  intro i hi
  simp only [BitVec.getLsbD_extractLsb', BitVec.getLsbD_append]
  repeat' split
  all_goals (rw [decide_eq_true (by omega), Bool.true_and]; congr 1; omega)

/-- A word is the I-format word of its slices. -/
theorem encodeI_of_slices (w : Word) :
    encodeI (w.extractLsb' 26 6) (w.extractLsb' 21 5) (w.extractLsb' 16 5) (w.extractLsb' 0 16) = w := by
  apply BitVec.eq_of_getLsbD_eq
  intro i hi
  simp only [encodeI, BitVec.getLsbD_extractLsb', BitVec.getLsbD_append]
  repeat' split
  all_goals (rw [decide_eq_true (by omega), Bool.true_and]; congr 1; omega)

/-- A word is the J-format word of its slices. -/
theorem encodeJ_of_slices (w : Word) : encodeJ (w.extractLsb' 26 6) (w.extractLsb' 0 26) = w := by
  apply BitVec.eq_of_getLsbD_eq
  intro i hi
  simp only [encodeJ, BitVec.getLsbD_extractLsb', BitVec.getLsbD_append]
  repeat' split
  all_goals (rw [decide_eq_true (by omega), Bool.true_and]; congr 1; omega)

/-- The mask 0xFC000000 tests `op`. -/
theorem opMask_iff (w : Word) (o : BitVec 6) :
    w &&& 0xFC000000#32 = o.setWidth 32 <<< 26 ↔ w.extractLsb' 26 6 = o := by
  constructor
  · intro h
    apply BitVec.eq_of_getLsbD_eq
    intro i hi
    have hb := congrArg (·.getLsbD (26 + i)) h
    simp at hb
    have h6 : i < 6 := hi
    interval_cases i <;> simp_all
  · rintro rfl
    apply BitVec.eq_of_getLsbD_eq
    intro i hi
    simp
    interval_cases i <;> simp

/-- The mask 0xFC00003F tests `op` = 0x00 and `funct`. -/
theorem functMask_iff (w : Word) (o : BitVec 6) :
    w &&& 0xFC00003F#32 = o.setWidth 32 ↔ w.extractLsb' 26 6 = 0x00#6 ∧ w.extractLsb' 0 6 = o := by
  constructor
  · intro h
    constructor
    · apply BitVec.eq_of_getLsbD_eq
      intro i hi
      have hb := congrArg (·.getLsbD (26 + i)) h
      simp at hb
      interval_cases i <;> simp_all
    · apply BitVec.eq_of_getLsbD_eq
      intro i hi
      have hb := congrArg (·.getLsbD i) h
      simp at hb
      interval_cases i <;> simp_all
  · rintro ⟨h1, rfl⟩
    apply BitVec.eq_of_getLsbD_eq
    intro i hi
    simp
    by_cases h26 : 26 ≤ i
    · have hb := congrArg (·.getLsbD (i - 26)) h1
      simp at hb
      interval_cases i <;> simp_all
    · interval_cases i <;> simp_all

end Sys2Proof
end

