-- ==== Sys2Proof/Laws/State.lean ====
section
/-! SUPPORT. For every named update of the state, what each field and each register read is after it. Later proofs
cite these instead of unfolding a record update. -/

namespace Sys2Proof.Machine

variable (s : State)

/-! ## `emit` -/

section

variable (e : Event)

@[simp] theorem emit_pc : (emit e s).pc = s.pc := rfl
@[simp] theorem emit_code : (emit e s).code = s.code := rfl
@[simp] theorem emit_cycle : (emit e s).cycle = s.cycle := rfl
@[simp] theorem emit_gpr : (emit e s).gpr = s.gpr := rfl
@[simp] theorem emit_hi : (emit e s).hi = s.hi := rfl
@[simp] theorem emit_lo : (emit e s).lo = s.lo := rfl
@[simp] theorem emit_cop0 : (emit e s).cop0 = s.cop0 := rfl
@[simp] theorem emit_cop2 : (emit e s).cop2 = s.cop2 := rfl
@[simp] theorem emit_icache : (emit e s).icache = s.icache := rfl
@[simp] theorem emit_inDelaySlot : (emit e s).inDelaySlot = s.inDelaySlot := rfl
@[simp] theorem emit_settings : (emit e s).settings = s.settings := rfl
@[simp] theorem emit_branchTarget : (emit e s).branchTarget = s.branchTarget := rfl
@[simp] theorem emit_ld : (emit e s).ld = s.ld := rfl
@[simp] theorem emit_params : (emit e s).params = s.params := rfl
@[simp] theorem emit_events : (emit e s).events = s.events ++ [e] := rfl
@[simp] theorem emit_dataAnswers : (emit e s).dataAnswers = s.dataAnswers := rfl
@[simp] theorem emit_dataReads : (emit e s).dataReads = s.dataReads := rfl
@[simp] theorem readReg_emit (i : RegIdx) : readReg (emit e s) i = readReg s i := rfl
@[simp] theorem readCop0_emit (i : RegIdx) : readCop0 (emit e s) i = readCop0 s i := rfl
@[simp] theorem readCop2_emit (i : RegIdx) : readCop2 (emit e s) i = readCop2 s i := rfl

end

/-! ## `setPc` -/

section

variable (v : Word)

@[simp] theorem setPc_pc : (setPc v s).pc = v := rfl
@[simp] theorem setPc_code : (setPc v s).code = s.code := rfl
@[simp] theorem setPc_cycle : (setPc v s).cycle = s.cycle := rfl
@[simp] theorem setPc_gpr : (setPc v s).gpr = s.gpr := rfl
@[simp] theorem setPc_hi : (setPc v s).hi = s.hi := rfl
@[simp] theorem setPc_lo : (setPc v s).lo = s.lo := rfl
@[simp] theorem setPc_cop0 : (setPc v s).cop0 = s.cop0 := rfl
@[simp] theorem setPc_cop2 : (setPc v s).cop2 = s.cop2 := rfl
@[simp] theorem setPc_icache : (setPc v s).icache = s.icache := rfl
@[simp] theorem setPc_inDelaySlot : (setPc v s).inDelaySlot = s.inDelaySlot := rfl
@[simp] theorem setPc_settings : (setPc v s).settings = s.settings := rfl
@[simp] theorem setPc_branchTarget : (setPc v s).branchTarget = s.branchTarget := rfl
@[simp] theorem setPc_ld : (setPc v s).ld = s.ld := rfl
@[simp] theorem setPc_params : (setPc v s).params = s.params := rfl
@[simp] theorem setPc_events : (setPc v s).events = s.events := rfl
@[simp] theorem setPc_dataAnswers : (setPc v s).dataAnswers = s.dataAnswers := rfl
@[simp] theorem setPc_dataReads : (setPc v s).dataReads = s.dataReads := rfl
@[simp] theorem readReg_setPc (i : RegIdx) : readReg (setPc v s) i = readReg s i := rfl
@[simp] theorem readCop0_setPc (i : RegIdx) : readCop0 (setPc v s) i = readCop0 s i := rfl
@[simp] theorem readCop2_setPc (i : RegIdx) : readCop2 (setPc v s) i = readCop2 s i := rfl

end

/-! ## `writeReg` -/

section

variable (i : RegIdx) (v : Word)

@[simp] theorem writeReg_pc : (writeReg i v s).pc = s.pc := by unfold writeReg; split <;> rfl
@[simp] theorem writeReg_code : (writeReg i v s).code = s.code := by unfold writeReg; split <;> rfl
@[simp] theorem writeReg_cycle : (writeReg i v s).cycle = s.cycle := by unfold writeReg; split <;> rfl
@[simp] theorem writeReg_hi : (writeReg i v s).hi = s.hi := by unfold writeReg; split <;> rfl
@[simp] theorem writeReg_lo : (writeReg i v s).lo = s.lo := by unfold writeReg; split <;> rfl
@[simp] theorem writeReg_cop0 : (writeReg i v s).cop0 = s.cop0 := by unfold writeReg; split <;> rfl
@[simp] theorem writeReg_cop2 : (writeReg i v s).cop2 = s.cop2 := by unfold writeReg; split <;> rfl
@[simp] theorem writeReg_icache : (writeReg i v s).icache = s.icache := by unfold writeReg; split <;> rfl
@[simp] theorem writeReg_inDelaySlot : (writeReg i v s).inDelaySlot = s.inDelaySlot := by unfold writeReg; split <;> rfl
@[simp] theorem writeReg_settings : (writeReg i v s).settings = s.settings := by unfold writeReg; split <;> rfl
@[simp] theorem writeReg_branchTarget : (writeReg i v s).branchTarget = s.branchTarget := by unfold writeReg; split <;> rfl
@[simp] theorem writeReg_ld : (writeReg i v s).ld = s.ld := by unfold writeReg; split <;> rfl
@[simp] theorem writeReg_params : (writeReg i v s).params = s.params := by unfold writeReg; split <;> rfl
@[simp] theorem writeReg_events : (writeReg i v s).events = s.events := by unfold writeReg; split <;> rfl
@[simp] theorem writeReg_dataAnswers : (writeReg i v s).dataAnswers = s.dataAnswers := by unfold writeReg; split <;> rfl
@[simp] theorem writeReg_dataReads : (writeReg i v s).dataReads = s.dataReads := by unfold writeReg; split <;> rfl
@[simp] theorem readCop0_writeReg (n : RegIdx) : readCop0 (writeReg i v s) n = readCop0 s n := by unfold writeReg; split <;> rfl
@[simp] theorem readCop2_writeReg (n : RegIdx) : readCop2 (writeReg i v s) n = readCop2 s n := by unfold writeReg; split <;> rfl

end

/-! ## `writeCop0` -/

section

variable (n : RegIdx) (v : Word)

@[simp] theorem writeCop0_pc : (writeCop0 n v s).pc = s.pc := rfl
@[simp] theorem writeCop0_code : (writeCop0 n v s).code = s.code := rfl
@[simp] theorem writeCop0_cycle : (writeCop0 n v s).cycle = s.cycle := rfl
@[simp] theorem writeCop0_gpr : (writeCop0 n v s).gpr = s.gpr := rfl
@[simp] theorem writeCop0_hi : (writeCop0 n v s).hi = s.hi := rfl
@[simp] theorem writeCop0_lo : (writeCop0 n v s).lo = s.lo := rfl
@[simp] theorem writeCop0_cop2 : (writeCop0 n v s).cop2 = s.cop2 := rfl
@[simp] theorem writeCop0_icache : (writeCop0 n v s).icache = s.icache := rfl
@[simp] theorem writeCop0_inDelaySlot : (writeCop0 n v s).inDelaySlot = s.inDelaySlot := rfl
@[simp] theorem writeCop0_settings : (writeCop0 n v s).settings = s.settings := rfl
@[simp] theorem writeCop0_branchTarget : (writeCop0 n v s).branchTarget = s.branchTarget := rfl
@[simp] theorem writeCop0_ld : (writeCop0 n v s).ld = s.ld := rfl
@[simp] theorem writeCop0_params : (writeCop0 n v s).params = s.params := rfl
@[simp] theorem writeCop0_events : (writeCop0 n v s).events = s.events := rfl
@[simp] theorem writeCop0_dataAnswers : (writeCop0 n v s).dataAnswers = s.dataAnswers := rfl
@[simp] theorem writeCop0_dataReads : (writeCop0 n v s).dataReads = s.dataReads := rfl
@[simp] theorem readReg_writeCop0 (i : RegIdx) : readReg (writeCop0 n v s) i = readReg s i := rfl
@[simp] theorem readCop2_writeCop0 (i : RegIdx) : readCop2 (writeCop0 n v s) i = readCop2 s i := rfl

end

/-! ## `interceptSp` -/

section

variable (r : RegIdx) (v : Word)

@[simp] theorem interceptSp_pc : (interceptSp r v s).pc = s.pc := by unfold interceptSp; split <;> rfl
@[simp] theorem interceptSp_code : (interceptSp r v s).code = s.code := by unfold interceptSp; split <;> rfl
@[simp] theorem interceptSp_cycle : (interceptSp r v s).cycle = s.cycle := by unfold interceptSp; split <;> rfl
@[simp] theorem interceptSp_gpr : (interceptSp r v s).gpr = s.gpr := by unfold interceptSp; split <;> rfl
@[simp] theorem interceptSp_hi : (interceptSp r v s).hi = s.hi := by unfold interceptSp; split <;> rfl
@[simp] theorem interceptSp_lo : (interceptSp r v s).lo = s.lo := by unfold interceptSp; split <;> rfl
@[simp] theorem interceptSp_cop0 : (interceptSp r v s).cop0 = s.cop0 := by unfold interceptSp; split <;> rfl
@[simp] theorem interceptSp_cop2 : (interceptSp r v s).cop2 = s.cop2 := by unfold interceptSp; split <;> rfl
@[simp] theorem interceptSp_icache : (interceptSp r v s).icache = s.icache := by unfold interceptSp; split <;> rfl
@[simp] theorem interceptSp_inDelaySlot : (interceptSp r v s).inDelaySlot = s.inDelaySlot := by unfold interceptSp; split <;> rfl
@[simp] theorem interceptSp_settings : (interceptSp r v s).settings = s.settings := by unfold interceptSp; split <;> rfl
@[simp] theorem interceptSp_branchTarget : (interceptSp r v s).branchTarget = s.branchTarget := by unfold interceptSp; split <;> rfl
@[simp] theorem interceptSp_ld : (interceptSp r v s).ld = s.ld := by unfold interceptSp; split <;> rfl
@[simp] theorem interceptSp_params : (interceptSp r v s).params = s.params := by unfold interceptSp; split <;> rfl
@[simp] theorem interceptSp_dataAnswers : (interceptSp r v s).dataAnswers = s.dataAnswers := by unfold interceptSp; split <;> rfl
@[simp] theorem interceptSp_dataReads : (interceptSp r v s).dataReads = s.dataReads := by unfold interceptSp; split <;> rfl
@[simp] theorem readReg_interceptSp (i : RegIdx) : readReg (interceptSp r v s) i = readReg s i := by unfold interceptSp; split <;> rfl
@[simp] theorem readCop0_interceptSp (i : RegIdx) : readCop0 (interceptSp r v s) i = readCop0 s i := by unfold interceptSp; split <;> rfl
@[simp] theorem readCop2_interceptSp (i : RegIdx) : readCop2 (interceptSp r v s) i = readCop2 s i := by unfold interceptSp; split <;> rfl

end

/-! ## `commitReg` -/

section

variable (r : RegIdx) (v : Word)

@[simp] theorem commitReg_pc : (commitReg r v s).pc = s.pc := by simp [commitReg]
@[simp] theorem commitReg_code : (commitReg r v s).code = s.code := by simp [commitReg]
@[simp] theorem commitReg_cycle : (commitReg r v s).cycle = s.cycle := by simp [commitReg]
@[simp] theorem commitReg_hi : (commitReg r v s).hi = s.hi := by simp [commitReg]
@[simp] theorem commitReg_lo : (commitReg r v s).lo = s.lo := by simp [commitReg]
@[simp] theorem commitReg_cop0 : (commitReg r v s).cop0 = s.cop0 := by simp [commitReg]
@[simp] theorem commitReg_cop2 : (commitReg r v s).cop2 = s.cop2 := by simp [commitReg]
@[simp] theorem commitReg_icache : (commitReg r v s).icache = s.icache := by simp [commitReg]
@[simp] theorem commitReg_inDelaySlot : (commitReg r v s).inDelaySlot = s.inDelaySlot := by simp [commitReg]
@[simp] theorem commitReg_settings : (commitReg r v s).settings = s.settings := by simp [commitReg]
@[simp] theorem commitReg_branchTarget : (commitReg r v s).branchTarget = s.branchTarget := by simp [commitReg]
@[simp] theorem commitReg_ld : (commitReg r v s).ld = s.ld := by simp [commitReg]
@[simp] theorem commitReg_params : (commitReg r v s).params = s.params := by simp [commitReg]
@[simp] theorem commitReg_dataAnswers : (commitReg r v s).dataAnswers = s.dataAnswers := by simp [commitReg]
@[simp] theorem commitReg_dataReads : (commitReg r v s).dataReads = s.dataReads := by simp [commitReg]
@[simp] theorem readCop0_commitReg (i : RegIdx) : readCop0 (commitReg r v s) i = readCop0 s i := by simp [commitReg]
@[simp] theorem readCop2_commitReg (i : RegIdx) : readCop2 (commitReg r v s) i = readCop2 s i := by simp [commitReg]

end

/-! ## `enterEpc` -/

section

variable (fa : Word) (bd : Bool)

@[simp] theorem enterEpc_pc : (enterEpc fa bd s).pc = s.pc := rfl
@[simp] theorem enterEpc_code : (enterEpc fa bd s).code = s.code := rfl
@[simp] theorem enterEpc_cycle : (enterEpc fa bd s).cycle = s.cycle := rfl
@[simp] theorem enterEpc_gpr : (enterEpc fa bd s).gpr = s.gpr := rfl
@[simp] theorem enterEpc_hi : (enterEpc fa bd s).hi = s.hi := rfl
@[simp] theorem enterEpc_lo : (enterEpc fa bd s).lo = s.lo := rfl
@[simp] theorem enterEpc_cop2 : (enterEpc fa bd s).cop2 = s.cop2 := rfl
@[simp] theorem enterEpc_icache : (enterEpc fa bd s).icache = s.icache := rfl
@[simp] theorem enterEpc_inDelaySlot : (enterEpc fa bd s).inDelaySlot = s.inDelaySlot := rfl
@[simp] theorem enterEpc_settings : (enterEpc fa bd s).settings = s.settings := rfl
@[simp] theorem enterEpc_branchTarget : (enterEpc fa bd s).branchTarget = s.branchTarget := rfl
@[simp] theorem enterEpc_ld : (enterEpc fa bd s).ld = s.ld := rfl
@[simp] theorem enterEpc_params : (enterEpc fa bd s).params = s.params := rfl
@[simp] theorem enterEpc_events : (enterEpc fa bd s).events = s.events := rfl
@[simp] theorem enterEpc_dataAnswers : (enterEpc fa bd s).dataAnswers = s.dataAnswers := rfl
@[simp] theorem enterEpc_dataReads : (enterEpc fa bd s).dataReads = s.dataReads := rfl
@[simp] theorem readReg_enterEpc (i : RegIdx) : readReg (enterEpc fa bd s) i = readReg s i := rfl
@[simp] theorem readCop2_enterEpc (i : RegIdx) : readCop2 (enterEpc fa bd s) i = readCop2 s i := rfl

end

/-! ## `enterSr` -/

section

@[simp] theorem enterSr_pc : (enterSr s).pc = s.pc := rfl
@[simp] theorem enterSr_code : (enterSr s).code = s.code := rfl
@[simp] theorem enterSr_cycle : (enterSr s).cycle = s.cycle := rfl
@[simp] theorem enterSr_gpr : (enterSr s).gpr = s.gpr := rfl
@[simp] theorem enterSr_hi : (enterSr s).hi = s.hi := rfl
@[simp] theorem enterSr_lo : (enterSr s).lo = s.lo := rfl
@[simp] theorem enterSr_cop2 : (enterSr s).cop2 = s.cop2 := rfl
@[simp] theorem enterSr_icache : (enterSr s).icache = s.icache := rfl
@[simp] theorem enterSr_inDelaySlot : (enterSr s).inDelaySlot = s.inDelaySlot := rfl
@[simp] theorem enterSr_settings : (enterSr s).settings = s.settings := rfl
@[simp] theorem enterSr_branchTarget : (enterSr s).branchTarget = s.branchTarget := rfl
@[simp] theorem enterSr_ld : (enterSr s).ld = s.ld := rfl
@[simp] theorem enterSr_params : (enterSr s).params = s.params := rfl
@[simp] theorem enterSr_events : (enterSr s).events = s.events := rfl
@[simp] theorem enterSr_dataAnswers : (enterSr s).dataAnswers = s.dataAnswers := rfl
@[simp] theorem enterSr_dataReads : (enterSr s).dataReads = s.dataReads := rfl
@[simp] theorem readReg_enterSr (i : RegIdx) : readReg (enterSr s) i = readReg s i := rfl
@[simp] theorem readCop2_enterSr (i : RegIdx) : readCop2 (enterSr s) i = readCop2 s i := rfl

end

/-! ## `enterCause` -/

section

variable (k : ExceptionKind) (bd cop : Bool)

@[simp] theorem enterCause_pc : (enterCause k bd cop s).pc = s.pc := rfl
@[simp] theorem enterCause_code : (enterCause k bd cop s).code = s.code := rfl
@[simp] theorem enterCause_cycle : (enterCause k bd cop s).cycle = s.cycle := rfl
@[simp] theorem enterCause_gpr : (enterCause k bd cop s).gpr = s.gpr := rfl
@[simp] theorem enterCause_hi : (enterCause k bd cop s).hi = s.hi := rfl
@[simp] theorem enterCause_lo : (enterCause k bd cop s).lo = s.lo := rfl
@[simp] theorem enterCause_cop2 : (enterCause k bd cop s).cop2 = s.cop2 := rfl
@[simp] theorem enterCause_icache : (enterCause k bd cop s).icache = s.icache := rfl
@[simp] theorem enterCause_inDelaySlot : (enterCause k bd cop s).inDelaySlot = s.inDelaySlot := rfl
@[simp] theorem enterCause_settings : (enterCause k bd cop s).settings = s.settings := rfl
@[simp] theorem enterCause_branchTarget : (enterCause k bd cop s).branchTarget = s.branchTarget := rfl
@[simp] theorem enterCause_ld : (enterCause k bd cop s).ld = s.ld := rfl
@[simp] theorem enterCause_params : (enterCause k bd cop s).params = s.params := rfl
@[simp] theorem enterCause_events : (enterCause k bd cop s).events = s.events := rfl
@[simp] theorem enterCause_dataAnswers : (enterCause k bd cop s).dataAnswers = s.dataAnswers := rfl
@[simp] theorem enterCause_dataReads : (enterCause k bd cop s).dataReads = s.dataReads := rfl
@[simp] theorem readReg_enterCause (i : RegIdx) : readReg (enterCause k bd cop s) i = readReg s i := rfl
@[simp] theorem readCop2_enterCause (i : RegIdx) : readCop2 (enterCause k bd cop s) i = readCop2 s i := rfl

end

/-! ## `takeException` -/

section

variable (k : ExceptionKind) (bd cop : Bool)

@[simp] theorem takeException_pc : (takeException k bd cop s).pc = s.params.excVector := rfl
@[simp] theorem takeException_code : (takeException k bd cop s).code = s.code := rfl
@[simp] theorem takeException_cycle : (takeException k bd cop s).cycle = s.cycle := rfl
@[simp] theorem takeException_gpr : (takeException k bd cop s).gpr = s.gpr := rfl
@[simp] theorem takeException_hi : (takeException k bd cop s).hi = s.hi := rfl
@[simp] theorem takeException_lo : (takeException k bd cop s).lo = s.lo := rfl
@[simp] theorem takeException_cop2 : (takeException k bd cop s).cop2 = s.cop2 := rfl
@[simp] theorem takeException_icache : (takeException k bd cop s).icache = s.icache := rfl
@[simp] theorem takeException_inDelaySlot : (takeException k bd cop s).inDelaySlot = s.inDelaySlot := rfl
@[simp] theorem takeException_settings : (takeException k bd cop s).settings = s.settings := rfl
@[simp] theorem takeException_branchTarget : (takeException k bd cop s).branchTarget = s.branchTarget := rfl
@[simp] theorem takeException_ld : (takeException k bd cop s).ld = s.ld := rfl
@[simp] theorem takeException_params : (takeException k bd cop s).params = s.params := rfl
@[simp] theorem takeException_events : (takeException k bd cop s).events = s.events := rfl
@[simp] theorem takeException_dataAnswers : (takeException k bd cop s).dataAnswers = s.dataAnswers := rfl
@[simp] theorem takeException_dataReads : (takeException k bd cop s).dataReads = s.dataReads := rfl
@[simp] theorem readReg_takeException (i : RegIdx) : readReg (takeException k bd cop s) i = readReg s i := rfl
@[simp] theorem readCop2_takeException (i : RegIdx) : readCop2 (takeException k bd cop s) i = readCop2 s i := rfl

end

/-! ## `afterFetch` -/

section

variable (w : Word)

@[simp] theorem afterFetch_pc : (afterFetch w s).pc = s.pc + 4#32 := rfl
@[simp] theorem afterFetch_code : (afterFetch w s).code = w := rfl
@[simp] theorem afterFetch_cycle : (afterFetch w s).cycle = s.cycle + s.params.cycleBias := rfl
@[simp] theorem afterFetch_gpr : (afterFetch w s).gpr = s.gpr := rfl
@[simp] theorem afterFetch_hi : (afterFetch w s).hi = s.hi := rfl
@[simp] theorem afterFetch_lo : (afterFetch w s).lo = s.lo := rfl
@[simp] theorem afterFetch_cop0 : (afterFetch w s).cop0 = s.cop0 := rfl
@[simp] theorem afterFetch_cop2 : (afterFetch w s).cop2 = s.cop2 := rfl
@[simp] theorem afterFetch_icache : (afterFetch w s).icache = s.icache := rfl
@[simp] theorem afterFetch_inDelaySlot : (afterFetch w s).inDelaySlot = s.inDelaySlot := rfl
@[simp] theorem afterFetch_settings : (afterFetch w s).settings = s.settings := rfl
@[simp] theorem afterFetch_branchTarget : (afterFetch w s).branchTarget = s.branchTarget := rfl
@[simp] theorem afterFetch_ld : (afterFetch w s).ld = s.ld := rfl
@[simp] theorem afterFetch_params : (afterFetch w s).params = s.params := rfl
@[simp] theorem afterFetch_events : (afterFetch w s).events = [] := rfl
@[simp] theorem afterFetch_dataAnswers : (afterFetch w s).dataAnswers = s.dataAnswers := rfl
@[simp] theorem afterFetch_dataReads : (afterFetch w s).dataReads = s.dataReads := rfl
@[simp] theorem readReg_afterFetch (i : RegIdx) : readReg (afterFetch w s) i = readReg s i := rfl
@[simp] theorem readCop0_afterFetch (i : RegIdx) : readCop0 (afterFetch w s) i = readCop0 s i := rfl
@[simp] theorem readCop2_afterFetch (i : RegIdx) : readCop2 (afterFetch w s) i = readCop2 s i := rfl

end

/-! ## `writeSettings` -/

section

variable (v : Bool)

@[simp] theorem writeSettings_pc : (writeSettings v s).pc = s.pc := rfl
@[simp] theorem writeSettings_code : (writeSettings v s).code = s.code := rfl
@[simp] theorem writeSettings_cycle : (writeSettings v s).cycle = s.cycle := rfl
@[simp] theorem writeSettings_gpr : (writeSettings v s).gpr = s.gpr := rfl
@[simp] theorem writeSettings_hi : (writeSettings v s).hi = s.hi := rfl
@[simp] theorem writeSettings_lo : (writeSettings v s).lo = s.lo := rfl
@[simp] theorem writeSettings_cop0 : (writeSettings v s).cop0 = s.cop0 := rfl
@[simp] theorem writeSettings_cop2 : (writeSettings v s).cop2 = s.cop2 := rfl
@[simp] theorem writeSettings_icache : (writeSettings v s).icache = s.icache := rfl
@[simp] theorem writeSettings_inDelaySlot : (writeSettings v s).inDelaySlot = s.inDelaySlot := rfl
@[simp] theorem writeSettings_settings : (writeSettings v s).settings = ⟨v⟩ := rfl
@[simp] theorem writeSettings_branchTarget : (writeSettings v s).branchTarget = s.branchTarget := rfl
@[simp] theorem writeSettings_ld : (writeSettings v s).ld = s.ld := rfl
@[simp] theorem writeSettings_params : (writeSettings v s).params = s.params := rfl
@[simp] theorem writeSettings_events : (writeSettings v s).events = s.events := rfl
@[simp] theorem writeSettings_dataAnswers : (writeSettings v s).dataAnswers = s.dataAnswers := rfl
@[simp] theorem writeSettings_dataReads : (writeSettings v s).dataReads = s.dataReads := rfl
@[simp] theorem readReg_writeSettings (i : RegIdx) : readReg (writeSettings v s) i = readReg s i := rfl
@[simp] theorem readCop0_writeSettings (i : RegIdx) : readCop0 (writeSettings v s) i = readCop0 s i := rfl
@[simp] theorem readCop2_writeSettings (i : RegIdx) : readCop2 (writeSettings v s) i = readCop2 s i := rfl

end

/-! ## `answerData` -/

section

variable (a v : Word)

@[simp] theorem answerData_pc : (answerData a v s).pc = s.pc := rfl
@[simp] theorem answerData_code : (answerData a v s).code = s.code := rfl
@[simp] theorem answerData_cycle : (answerData a v s).cycle = s.cycle := rfl
@[simp] theorem answerData_gpr : (answerData a v s).gpr = s.gpr := rfl
@[simp] theorem answerData_hi : (answerData a v s).hi = s.hi := rfl
@[simp] theorem answerData_lo : (answerData a v s).lo = s.lo := rfl
@[simp] theorem answerData_cop0 : (answerData a v s).cop0 = s.cop0 := rfl
@[simp] theorem answerData_cop2 : (answerData a v s).cop2 = s.cop2 := rfl
@[simp] theorem answerData_icache : (answerData a v s).icache = s.icache := rfl
@[simp] theorem answerData_inDelaySlot : (answerData a v s).inDelaySlot = s.inDelaySlot := rfl
@[simp] theorem answerData_settings : (answerData a v s).settings = s.settings := rfl
@[simp] theorem answerData_branchTarget : (answerData a v s).branchTarget = s.branchTarget := rfl
@[simp] theorem answerData_ld : (answerData a v s).ld = s.ld := rfl
@[simp] theorem answerData_params : (answerData a v s).params = s.params := rfl
@[simp] theorem answerData_events : (answerData a v s).events = s.events := rfl
@[simp] theorem answerData_dataAnswers : (answerData a v s).dataAnswers = (a, v) :: s.dataAnswers := rfl
@[simp] theorem answerData_dataReads : (answerData a v s).dataReads = s.dataReads := rfl
@[simp] theorem readReg_answerData (i : RegIdx) : readReg (answerData a v s) i = readReg s i := rfl
@[simp] theorem readCop0_answerData (i : RegIdx) : readCop0 (answerData a v s) i = readCop0 s i := rfl
@[simp] theorem readCop2_answerData (i : RegIdx) : readCop2 (answerData a v s) i = readCop2 s i := rfl

end

/-! ## `placeAtPc` -/

section

variable (w : Word)

@[simp] theorem placeAtPc_pc : (placeAtPc w s).pc = s.pc := by unfold placeAtPc; split <;> rfl
@[simp] theorem placeAtPc_code : (placeAtPc w s).code = s.code := by unfold placeAtPc; split <;> rfl
@[simp] theorem placeAtPc_cycle : (placeAtPc w s).cycle = s.cycle := by unfold placeAtPc; split <;> rfl
@[simp] theorem placeAtPc_gpr : (placeAtPc w s).gpr = s.gpr := by unfold placeAtPc; split <;> rfl
@[simp] theorem placeAtPc_hi : (placeAtPc w s).hi = s.hi := by unfold placeAtPc; split <;> rfl
@[simp] theorem placeAtPc_lo : (placeAtPc w s).lo = s.lo := by unfold placeAtPc; split <;> rfl
@[simp] theorem placeAtPc_cop0 : (placeAtPc w s).cop0 = s.cop0 := by unfold placeAtPc; split <;> rfl
@[simp] theorem placeAtPc_cop2 : (placeAtPc w s).cop2 = s.cop2 := by unfold placeAtPc; split <;> rfl
@[simp] theorem placeAtPc_inDelaySlot : (placeAtPc w s).inDelaySlot = s.inDelaySlot := by unfold placeAtPc; split <;> rfl
@[simp] theorem placeAtPc_settings : (placeAtPc w s).settings = s.settings := by unfold placeAtPc; split <;> rfl
@[simp] theorem placeAtPc_branchTarget : (placeAtPc w s).branchTarget = s.branchTarget := by unfold placeAtPc; split <;> rfl
@[simp] theorem placeAtPc_ld : (placeAtPc w s).ld = s.ld := by unfold placeAtPc; split <;> rfl
@[simp] theorem placeAtPc_params : (placeAtPc w s).params = s.params := by unfold placeAtPc; split <;> rfl
@[simp] theorem placeAtPc_events : (placeAtPc w s).events = s.events := by unfold placeAtPc; split <;> rfl
@[simp] theorem placeAtPc_dataAnswers : (placeAtPc w s).dataAnswers = s.dataAnswers := by unfold placeAtPc; split <;> rfl
@[simp] theorem placeAtPc_dataReads : (placeAtPc w s).dataReads = s.dataReads := by unfold placeAtPc; split <;> rfl
@[simp] theorem readReg_placeAtPc (i : RegIdx) : readReg (placeAtPc w s) i = readReg s i := by unfold placeAtPc; split <;> rfl
@[simp] theorem readCop0_placeAtPc (i : RegIdx) : readCop0 (placeAtPc w s) i = readCop0 s i := by unfold placeAtPc; split <;> rfl
@[simp] theorem readCop2_placeAtPc (i : RegIdx) : readCop2 (placeAtPc w s) i = readCop2 s i := by unfold placeAtPc; split <;> rfl

end

/-! ## When two states are equal -/

theorem LoadSlot.eq_of_fields {a b : LoadSlot} (h1 : a.valid = b.valid) (h2 : a.reg = b.reg)
    (h3 : a.value = b.value) : a = b := by
  cases a; cases b; simp_all

theorem State.eq_of_fields {a b : State} (pc : a.pc = b.pc) (code : a.code = b.code) (cycle : a.cycle = b.cycle)
    (gpr : a.gpr = b.gpr) (hi : a.hi = b.hi) (lo : a.lo = b.lo) (cop0 : a.cop0 = b.cop0) (cop2 : a.cop2 = b.cop2)
    (icache : a.icache = b.icache) (inDelaySlot : a.inDelaySlot = b.inDelaySlot)
    (settings : a.settings = b.settings) (branchTarget : a.branchTarget = b.branchTarget) (ld : a.ld = b.ld)
    (params : a.params = b.params) (events : a.events = b.events) (dataAnswers : a.dataAnswers = b.dataAnswers)
    (dataReads : a.dataReads = b.dataReads) : a = b := by
  cases a; cases b; simp_all

/-- The general registers are equal when every register reads alike and the cell behind register 0 is equal. -/
theorem State.gpr_eq_of_reads {a b : State} (h0 : a.gpr[0] = b.gpr[0]) (h : ∀ r, readReg a r = readReg b r) :
    a.gpr = b.gpr := by
  apply Vector.ext
  intro i hi
  by_cases h1 : i = 0
  · subst h1; exact h0
  · have h2 : i % 32 = i := Nat.mod_eq_of_lt hi
    have h3 : ¬ BitVec.ofNat 5 i = 0#5 := by
      intro hz
      have := congrArg BitVec.toNat hz
      simp [h2] at this
      exact h1 this
    simpa [readReg, h3, h2] using h (BitVec.ofNat 5 i)

end Sys2Proof.Machine
end

