-- ==== Sys2Proof/Laws/Ops.lean ====
section
/-! SUPPORT. What each shared operation can do, said once: register and COP0 accesses, the interceptor, taking an
exception, the hazard operations, and the phases after an instruction's action. -/

namespace Sys2Proof.Machine

/-! ## Registers -/

theorem toNat_ne_of_ne {i j : RegIdx} (h : i ≠ j) : i.toNat ≠ j.toNat := fun e => h (BitVec.eq_of_toNat_eq e)

@[simp] theorem readReg_zero (s : State) : readReg s 0#5 = 0#32 := rfl

/-- A register write is seen at its own index, unless that is 0, and nowhere else. -/
theorem readReg_writeReg (s : State) (i j : RegIdx) (v : Word) :
    readReg (writeReg i v s) j = if i = j ∧ j ≠ 0#5 then v else readReg s j := by
  by_cases hi : i = 0#5
  · subst hi
    by_cases hj : 0#5 = j
    · subst hj; simp [writeReg]
    · simp [writeReg, hj]
  · by_cases hj : j = 0#5
    · subst hj; simp
    · by_cases hij : i = j
      · subst hij; simp [readReg, writeReg, hi]
      · simp [readReg, writeReg, hi, hj, hij, toNat_ne_of_ne hij]

@[simp] theorem readReg_commitReg (s : State) (r j : RegIdx) (v : Word) :
    readReg (commitReg r v s) j = if r = j ∧ j ≠ 0#5 then v else readReg s j := by
  simp [commitReg, readReg_writeReg]

/-- The interceptor sees the old value and the new one, exactly when the register is the stack pointer. -/
theorem commitReg_events (s : State) (r : RegIdx) (v : Word) :
    (commitReg r v s).events =
      s.events ++ if r = s.params.spIndex then [.spWrite (readReg s r) v] else [] := by
  unfold commitReg interceptSp
  split <;> simp

/-- `x[0]`'s cell is never written. -/
theorem writeReg_zeroCell (s : State) (i : RegIdx) (v : Word) : (writeReg i v s).gpr[0] = s.gpr[0] := by
  by_cases hi : i = 0#5
  · simp [writeReg, hi]
  · have : i.toNat ≠ 0 := toNat_ne_of_ne (j := 0#5) hi
    simp [writeReg, hi, this]

@[simp] theorem commitReg_zeroCell (s : State) (i : RegIdx) (v : Word) : (commitReg i v s).gpr[0] = s.gpr[0] := by
  simp [commitReg, writeReg_zeroCell]

/-! ## COP0 and exception entry -/

theorem readCop0_writeCop0 (s : State) (i j : RegIdx) (v : Word) :
    readCop0 (writeCop0 i v s) j = if i = j then v else readCop0 s j := by
  by_cases hij : i = j
  · subst hij; simp [readCop0, writeCop0]
  · simp [readCop0, writeCop0, hij, toNat_ne_of_ne hij]

/-- Exception entry writes EPC, SR and CAUSE, and no other register of COP0. -/
theorem readCop0_takeException (s : State) (k : ExceptionKind) (bd cop : Bool) (n : RegIdx) :
    readCop0 (takeException k bd cop s) n =
      if n = 14#5 then (if s.params.epcBdAdjust = true ∧ bd = true then s.pc - 4#32 else s.pc)
      else if n = 12#5 then pushedSr (readCop0 s 12#5)
      else if n = 13#5 then
        recordedCause (readCop0 s 13#5) k bd (if cop then s.params.ceForCopFault else 0#2)
      else readCop0 s n := by
  simp only [takeException, enterEpc, enterSr, enterCause, readCop0_setPc, readCop0_writeCop0, writeCop0_params,
    srReg, causeReg, epcReg]
  by_cases h14 : n = 14#5
  · simp [h14]
  · by_cases h12 : n = 12#5
    · simp [h12]
    · by_cases h13 : n = 13#5
      · simp [h13]
      · simp [h12, h13, h14, Ne.symm h12, Ne.symm h13, Ne.symm h14]

/-! ## The load-hazard canceller -/

@[simp] theorem empty_valid : LoadSlot.empty.valid = false := rfl
@[simp] theorem empty_reg : LoadSlot.empty.reg = 0#5 := rfl
@[simp] theorem empty_value : LoadSlot.empty.value = 0#32 := rfl

@[simp] theorem cancel_reg (r : RegIdx) (l : LoadSlot) : (l.cancel r).reg = l.reg := by
  unfold LoadSlot.cancel; split <;> rfl

@[simp] theorem cancel_value (r : RegIdx) (l : LoadSlot) : (l.cancel r).value = l.value := by
  unfold LoadSlot.cancel; split <;> rfl

/-- The slot stays valid unless its register is the one named. -/
@[simp] theorem cancel_valid (r : RegIdx) (l : LoadSlot) : (l.cancel r).valid = (l.valid && l.reg != r) := by
  unfold LoadSlot.cancel
  split <;> rename_i h
  · simp [h.1, h.2]
  · cases hv : l.valid <;> simp_all

@[simp] theorem readOp_fst (i dst : RegIdx) (c : StepCtx) : (readOp i dst c).1 = readReg c.st i := rfl

@[simp] theorem readOp_snd (i dst : RegIdx) (c : StepCtx) : (readOp i dst c).2 = cancelByRead i dst c := rfl

section

variable (i dst : RegIdx) (c : StepCtx)

@[simp] theorem cancelByRead_st : (cancelByRead i dst c).st = c.st := by unfold cancelByRead; split <;> rfl
@[simp] theorem cancelByRead_ds : (cancelByRead i dst c).ds = c.ds := by unfold cancelByRead; split <;> rfl
@[simp] theorem cancelByRead_new : (cancelByRead i dst c).new = c.new := by unfold cancelByRead; split <;> rfl
@[simp] theorem cancelByRead_exc : (cancelByRead i dst c).exc = c.exc := by unfold cancelByRead; split <;> rfl
@[simp] theorem cancelByRead_arm : (cancelByRead i dst c).arm = c.arm := by unfold cancelByRead; split <;> rfl

end

@[simp] theorem cancelByRead_old_reg (i dst : RegIdx) (c : StepCtx) : (cancelByRead i dst c).old.reg = c.old.reg := by
  unfold cancelByRead; split <;> simp

@[simp] theorem cancelByRead_old_value (i dst : RegIdx) (c : StepCtx) :
    (cancelByRead i dst c).old.value = c.old.value := by
  unfold cancelByRead; split <;> simp

@[simp] theorem cancelByRead_old_valid (i dst : RegIdx) (c : StepCtx) :
    (cancelByRead i dst c).old.valid =
      (c.old.valid && !(c.st.params.loadReadCancels && dst != 0#5 && c.old.reg == i)) := by
  unfold cancelByRead
  split <;> rename_i h
  · have : (dst == 0#5) = false := by simpa using h.2
    simp [h.1, bne, this]
  · cases hl : c.st.params.loadReadCancels <;> simp_all

section

variable (r : RegIdx) (v : Word) (c : StepCtx)

@[simp] theorem writeGPR_st : (writeGPR r v c).st = if r = 0#5 then c.st else commitReg r v c.st := by unfold writeGPR; split <;> rfl
@[simp] theorem writeGPR_ds : (writeGPR r v c).ds = c.ds := by unfold writeGPR; split <;> rfl
@[simp] theorem writeGPR_old : (writeGPR r v c).old = if r = 0#5 then c.old else c.old.cancel r := by unfold writeGPR; split <;> rfl
@[simp] theorem writeGPR_new : (writeGPR r v c).new = c.new := by unfold writeGPR; split <;> rfl
@[simp] theorem writeGPR_exc : (writeGPR r v c).exc = c.exc := by unfold writeGPR; split <;> rfl
@[simp] theorem writeGPR_arm : (writeGPR r v c).arm = c.arm := by unfold writeGPR; split <;> rfl

end

section

variable (r : RegIdx) (v : Word) (c : StepCtx)

@[simp] theorem issueLoad_st : (issueLoad r v c).st = c.st := rfl
@[simp] theorem issueLoad_ds : (issueLoad r v c).ds = c.ds := rfl
@[simp] theorem issueLoad_old : (issueLoad r v c).old = c.old.cancel r := rfl
@[simp] theorem issueLoad_new : (issueLoad r v c).new = ⟨true, r, v⟩ := rfl
@[simp] theorem issueLoad_exc : (issueLoad r v c).exc = c.exc := rfl
@[simp] theorem issueLoad_arm : (issueLoad r v c).arm = c.arm := rfl

end

section

variable (k : ExceptionKind) (bd cop : Bool) (c : StepCtx)

@[simp] theorem raise_st : (raise k bd cop c).st = takeException k bd cop c.st := rfl
@[simp] theorem raise_ds : (raise k bd cop c).ds = c.ds := rfl
@[simp] theorem raise_old : (raise k bd cop c).old = c.old := rfl
@[simp] theorem raise_new : (raise k bd cop c).new = c.new := rfl
@[simp] theorem raise_exc : (raise k bd cop c).exc = true := rfl
@[simp] theorem raise_arm : (raise k bd cop c).arm = c.arm := rfl

end

section

variable (a : Word) (c : StepCtx)

@[simp] theorem dataRead32_snd_st : (dataRead32 a c).2.st = { c.st with dataReads := c.st.dataReads + 1 } := rfl
@[simp] theorem dataRead32_snd_ds : (dataRead32 a c).2.ds = c.ds := rfl
@[simp] theorem dataRead32_snd_old : (dataRead32 a c).2.old = c.old := rfl
@[simp] theorem dataRead32_snd_new : (dataRead32 a c).2.new = c.new := rfl
@[simp] theorem dataRead32_snd_exc : (dataRead32 a c).2.exc = c.exc := rfl
@[simp] theorem dataRead32_snd_arm : (dataRead32 a c).2.arm = c.arm := rfl

end

@[simp] theorem dataRead32_fst (a : Word) (c : StepCtx) : (dataRead32 a c).1 = dataWordAt c.st a := rfl

section

variable (s : State)

@[simp] theorem beginStep_st : (beginStep s).st = s := rfl
@[simp] theorem beginStep_ds : (beginStep s).ds = s.inDelaySlot := rfl
@[simp] theorem beginStep_old : (beginStep s).old = s.ld := rfl
@[simp] theorem beginStep_new : (beginStep s).new = LoadSlot.empty := rfl
@[simp] theorem beginStep_exc : (beginStep s).exc = false := rfl
@[simp] theorem beginStep_arm : (beginStep s).arm = none := rfl

end

/-! ## Phases 5 and 6 -/

section

variable (c : StepCtx)

@[simp] theorem sequenceDelaySlot_ds : (sequenceDelaySlot c).ds = c.ds := by
  unfold sequenceDelaySlot
  split
  · rfl
  · split
    · rfl
    · split <;> rfl

@[simp] theorem sequenceDelaySlot_old : (sequenceDelaySlot c).old = c.old := by
  unfold sequenceDelaySlot
  split
  · rfl
  · split
    · rfl
    · split <;> rfl

@[simp] theorem sequenceDelaySlot_new : (sequenceDelaySlot c).new = c.new := by
  unfold sequenceDelaySlot
  split
  · rfl
  · split
    · rfl
    · split <;> rfl

@[simp] theorem sequenceDelaySlot_exc : (sequenceDelaySlot c).exc = c.exc := by
  unfold sequenceDelaySlot
  split
  · rfl
  · split
    · rfl
    · split <;> rfl

@[simp] theorem sequenceDelaySlot_arm : (sequenceDelaySlot c).arm = c.arm := by
  unfold sequenceDelaySlot
  split
  · rfl
  · split
    · rfl
    · split <;> rfl

@[simp] theorem sequenceDelaySlot_st_code : (sequenceDelaySlot c).st.code = c.st.code := by
  unfold sequenceDelaySlot
  split
  · rfl
  · split
    · rfl
    · split <;> rfl

@[simp] theorem sequenceDelaySlot_st_cycle : (sequenceDelaySlot c).st.cycle = c.st.cycle := by
  unfold sequenceDelaySlot
  split
  · rfl
  · split
    · rfl
    · split <;> rfl

@[simp] theorem sequenceDelaySlot_st_gpr : (sequenceDelaySlot c).st.gpr = c.st.gpr := by
  unfold sequenceDelaySlot
  split
  · rfl
  · split
    · rfl
    · split <;> rfl

@[simp] theorem sequenceDelaySlot_st_hi : (sequenceDelaySlot c).st.hi = c.st.hi := by
  unfold sequenceDelaySlot
  split
  · rfl
  · split
    · rfl
    · split <;> rfl

@[simp] theorem sequenceDelaySlot_st_lo : (sequenceDelaySlot c).st.lo = c.st.lo := by
  unfold sequenceDelaySlot
  split
  · rfl
  · split
    · rfl
    · split <;> rfl

@[simp] theorem sequenceDelaySlot_st_cop0 : (sequenceDelaySlot c).st.cop0 = c.st.cop0 := by
  unfold sequenceDelaySlot
  split
  · rfl
  · split
    · rfl
    · split <;> rfl

@[simp] theorem sequenceDelaySlot_st_cop2 : (sequenceDelaySlot c).st.cop2 = c.st.cop2 := by
  unfold sequenceDelaySlot
  split
  · rfl
  · split
    · rfl
    · split <;> rfl

@[simp] theorem sequenceDelaySlot_st_icache : (sequenceDelaySlot c).st.icache = c.st.icache := by
  unfold sequenceDelaySlot
  split
  · rfl
  · split
    · rfl
    · split <;> rfl

@[simp] theorem sequenceDelaySlot_st_settings : (sequenceDelaySlot c).st.settings = c.st.settings := by
  unfold sequenceDelaySlot
  split
  · rfl
  · split
    · rfl
    · split <;> rfl

@[simp] theorem sequenceDelaySlot_st_ld : (sequenceDelaySlot c).st.ld = c.st.ld := by
  unfold sequenceDelaySlot
  split
  · rfl
  · split
    · rfl
    · split <;> rfl

@[simp] theorem sequenceDelaySlot_st_params : (sequenceDelaySlot c).st.params = c.st.params := by
  unfold sequenceDelaySlot
  split
  · rfl
  · split
    · rfl
    · split <;> rfl

@[simp] theorem sequenceDelaySlot_st_events : (sequenceDelaySlot c).st.events = c.st.events := by
  unfold sequenceDelaySlot
  split
  · rfl
  · split
    · rfl
    · split <;> rfl

@[simp] theorem sequenceDelaySlot_st_dataAnswers : (sequenceDelaySlot c).st.dataAnswers = c.st.dataAnswers := by
  unfold sequenceDelaySlot
  split
  · rfl
  · split
    · rfl
    · split <;> rfl

@[simp] theorem sequenceDelaySlot_st_dataReads : (sequenceDelaySlot c).st.dataReads = c.st.dataReads := by
  unfold sequenceDelaySlot
  split
  · rfl
  · split
    · rfl
    · split <;> rfl

@[simp] theorem readReg_sequenceDelaySlot (i : RegIdx) : readReg (sequenceDelaySlot c).st i = readReg c.st i := by
  simp [readReg]

@[simp] theorem readCop0_sequenceDelaySlot (i : RegIdx) : readCop0 (sequenceDelaySlot c).st i = readCop0 c.st i := by
  simp [readCop0]

@[simp] theorem readCop2_sequenceDelaySlot (i : RegIdx) : readCop2 (sequenceDelaySlot c).st i = readCop2 c.st i := by
  simp [readCop2]

/-- The `pc` after phase 5: the vector of an exception stands, a delay slot ends at the branch target. -/
theorem sequenceDelaySlot_pc : (sequenceDelaySlot c).st.pc =
    if c.exc = false ∧ c.ds = true then c.st.branchTarget else c.st.pc := by
  unfold sequenceDelaySlot
  split <;> rename_i h1
  · simp [h1]
  · split <;> rename_i h2
    · simp [h1, h2]
    · split <;> simp_all

/-- The controller is IN_DELAY_SLOT after phase 5 when a branch was armed in NORMAL. -/
theorem sequenceDelaySlot_inDelaySlot : (sequenceDelaySlot c).st.inDelaySlot =
    if c.exc = true ∨ c.ds = true then false else c.arm.isSome || c.st.inDelaySlot := by
  unfold sequenceDelaySlot
  split <;> rename_i h1
  · simp [h1]
  · split <;> rename_i h2
    · simp [h1, h2]
    · split <;> simp_all

theorem sequenceDelaySlot_branchTarget : (sequenceDelaySlot c).st.branchTarget =
    if c.exc = true ∨ c.ds = true then c.st.branchTarget else c.arm.getD c.st.branchTarget := by
  unfold sequenceDelaySlot
  split <;> rename_i h1
  · simp [h1]
  · split <;> rename_i h2
    · simp [h1, h2]
    · split <;> simp_all

@[simp] theorem endStep_code : (endStep c).code = c.st.code := by unfold endStep resolvePending; split <;> simp [resolveLoad]
@[simp] theorem endStep_cycle : (endStep c).cycle = c.st.cycle := by unfold endStep resolvePending; split <;> simp [resolveLoad]
@[simp] theorem endStep_hi : (endStep c).hi = c.st.hi := by unfold endStep resolvePending; split <;> simp [resolveLoad]
@[simp] theorem endStep_lo : (endStep c).lo = c.st.lo := by unfold endStep resolvePending; split <;> simp [resolveLoad]
@[simp] theorem endStep_cop0 : (endStep c).cop0 = c.st.cop0 := by unfold endStep resolvePending; split <;> simp [resolveLoad]
@[simp] theorem endStep_cop2 : (endStep c).cop2 = c.st.cop2 := by unfold endStep resolvePending; split <;> simp [resolveLoad]
@[simp] theorem endStep_icache : (endStep c).icache = c.st.icache := by unfold endStep resolvePending; split <;> simp [resolveLoad]
@[simp] theorem endStep_settings : (endStep c).settings = c.st.settings := by unfold endStep resolvePending; split <;> simp [resolveLoad]
@[simp] theorem endStep_params : (endStep c).params = c.st.params := by unfold endStep resolvePending; split <;> simp [resolveLoad]
@[simp] theorem endStep_dataAnswers : (endStep c).dataAnswers = c.st.dataAnswers := by unfold endStep resolvePending; split <;> simp [resolveLoad]
@[simp] theorem endStep_dataReads : (endStep c).dataReads = c.st.dataReads := by unfold endStep resolvePending; split <;> simp [resolveLoad]

@[simp] theorem endStep_ld : (endStep c).ld = c.new := by unfold endStep resolvePending; simp

theorem endStep_pc' : (endStep c).pc = (sequenceDelaySlot c).st.pc := by unfold endStep resolvePending; split <;> simp [resolveLoad]

theorem endStep_inDelaySlot' : (endStep c).inDelaySlot = (sequenceDelaySlot c).st.inDelaySlot := by unfold endStep resolvePending; split <;> simp [resolveLoad]

theorem endStep_branchTarget' : (endStep c).branchTarget = (sequenceDelaySlot c).st.branchTarget := by unfold endStep resolvePending; split <;> simp [resolveLoad]

@[simp] theorem endStep_pc : (endStep c).pc =
    if c.exc = false ∧ c.ds = true then c.st.branchTarget else c.st.pc := by
  rw [endStep_pc', sequenceDelaySlot_pc]

@[simp] theorem endStep_inDelaySlot : (endStep c).inDelaySlot =
    if c.exc = true ∨ c.ds = true then false else c.arm.isSome || c.st.inDelaySlot := by
  rw [endStep_inDelaySlot', sequenceDelaySlot_inDelaySlot]

@[simp] theorem endStep_branchTarget : (endStep c).branchTarget =
    if c.exc = true ∨ c.ds = true then c.st.branchTarget else c.arm.getD c.st.branchTarget := by
  rw [endStep_branchTarget', sequenceDelaySlot_branchTarget]

@[simp] theorem readCop0_endStep (n : RegIdx) : readCop0 (endStep c) n = readCop0 c.st n := by simp [readCop0]

@[simp] theorem readCop2_endStep (n : RegIdx) : readCop2 (endStep c) n = readCop2 c.st n := by simp [readCop2]

/-- The registers after the step: an old load that was not cancelled has landed. -/
@[simp] theorem readReg_endStep (i : RegIdx) : readReg (endStep c) i =
    if c.old.valid = true ∧ c.old.reg = i ∧ i ≠ 0#5 then c.old.value else readReg c.st i := by
  have h (s : State) (l : LoadSlot) : readReg { s with ld := l } i = readReg s i := rfl
  unfold endStep resolvePending
  rw [h]
  cases hv : c.old.valid <;> simp [hv, resolveLoad]

/-- The events of the step: those of the action, then the interceptor's of a load that landed. -/
@[simp] theorem endStep_events : (endStep c).events = c.st.events ++
    if c.old.valid = true ∧ c.old.reg = c.st.params.spIndex
    then [.spWrite (readReg c.st c.old.reg) c.old.value] else [] := by
  unfold endStep resolvePending
  cases hv : c.old.valid <;> simp [hv, resolveLoad, commitReg_events]

@[simp] theorem endStep_zeroCell : (endStep c).gpr[0] = c.st.gpr[0] := by
  unfold endStep resolvePending
  cases hv : c.old.valid <;> simp [hv, resolveLoad]

end

/-- A step's instruction part is `OK` exactly when its action is, and then phases 5 and 6 end it. -/
theorem runAction_eq_next {action : StepCtx → Host.Outcome StepCtx Fault Refusal} {s t : State} :
    runAction action s = .next t ↔ ∃ c, action (beginStep s) = .next c ∧ t = endStep c := by
  unfold runAction
  cases h : action (beginStep s) <;> simp [eq_comm]

/-- It is `FATAL` exactly when its action is. -/
theorem runAction_eq_fault {action : StepCtx → Host.Outcome StepCtx Fault Refusal} {s : State} {r : Fault} :
    runAction action s = .fault r ↔ action (beginStep s) = .fault r := by
  unfold runAction
  cases h : action (beginStep s) <;> simp

end Sys2Proof.Machine
end

