-- ==== Sys2Proof/Laws/Exec.lean ====
section
/-! SUPPORT. What each instruction's action makes of the step's context, and one lemma, `exec_effect`, that says
once everything an instruction that is `OK` can do, in the terms of Safety.lean. -/

namespace Sys2Proof.Machine

/-! ## The actions -/

theorem oriAction_eq (rt rs : RegIdx) (imm : BitVec 16) (c : StepCtx) :
    oriAction rt rs imm c = .next
      (if rt = 0#5 then c else writeGPR rt (readReg c.st rs ||| zextImm imm) (cancelByRead rs rt c)) := by
  unfold oriAction; split <;> simp

theorem adduAction_eq (rd rs rt : RegIdx) (c : StepCtx) :
    adduAction rd rs rt c = .next
      (if rd = 0#5 then c
       else writeGPR rd (readReg c.st rs + readReg c.st rt) (cancelByRead rt rd (cancelByRead rs rd c))) := by
  unfold adduAction; split <;> simp

theorem addAction_eq (rd rs rt : RegIdx) (c : StepCtx) :
    addAction rd rs rt c = .next
      (if c.st.settings.overflowCheck = true ∧ addOverflows (readReg c.st rs) (readReg c.st rt) = true
       then addTrap (cancelByRead rt rd (cancelByRead rs rd c))
       else writeGPR rd (readReg c.st rs + readReg c.st rt) (cancelByRead rt rd (cancelByRead rs rd c))) := by
  unfold addAction; simp only [readOp_fst, readOp_snd, cancelByRead_st]; split <;> rfl

/-- LW's action on an address that is a multiple of 4, with a destination. -/
theorem lwAction_eq_next {rt rs : RegIdx} {imm : BitVec 16} {c c' : StepCtx} :
    lwAction rt rs imm c = .next c' ↔
      (rt = 0#5 ∧ c' = c) ∨
      (rt ≠ 0#5 ∧ Aligned (effectiveAddress (readReg c.st rs) imm) ∧
        c' = issueLoad rt (dataWordAt c.st (effectiveAddress (readReg c.st rs) imm))
          (dataRead32 (effectiveAddress (readReg c.st rs) imm) (cancelByRead rs rt c)).2) := by
  unfold lwAction
  by_cases h : rt = 0#5
  · simp [h, eq_comm]
  · by_cases ha : Aligned (effectiveAddress (readReg c.st rs) imm)
    · simp [h, ha, eq_comm]
    · simp [h, ha]

/-- LW's action is fatal exactly on a misaligned address, with a destination. -/
theorem lwAction_eq_fault {rt rs : RegIdx} {imm : BitVec 16} {c : StepCtx} {r : Fault} :
    lwAction rt rs imm c = .fault r ↔
      rt ≠ 0#5 ∧ ¬ Aligned (effectiveAddress (readReg c.st rs) imm) ∧
        r = .misalignedLoad (effectiveAddress (readReg c.st rs) imm) := by
  unfold lwAction
  by_cases h : rt = 0#5
  · simp [h]
  · by_cases ha : Aligned (effectiveAddress (readReg c.st rs) imm)
    · simp [h, ha]
    · simp [h, ha, eq_comm]

/-! ## ADD's trap -/

section

variable (c : StepCtx)

@[simp] theorem addTrap_ds : (addTrap c).ds = c.ds := rfl
@[simp] theorem addTrap_old : (addTrap c).old = c.old := rfl
@[simp] theorem addTrap_new : (addTrap c).new = c.new := rfl
@[simp] theorem addTrap_exc : (addTrap c).exc = true := rfl
@[simp] theorem addTrap_arm : (addTrap c).arm = c.arm := rfl

/-- The trap: rollback, diagnostic, exception (42_add.md R152). -/
theorem addTrap_st : (addTrap c).st =
    takeException .arithmeticOverflow c.ds false
      (emit (.logArithmeticOverflow (c.st.pc - 4#32)) (setPc (c.st.pc - 4#32) c.st)) := rfl

end

/-! ## The effect of an instruction -/

/-- The general register that the instruction writes within its own step, 0 if none. -/
def writes (s : State) : Instr → RegIdx
  | .ori rt _ _ => rt
  | .add rd rs rt h => if traps s (.add rd rs rt h) then 0#5 else rd
  | .addu rd _ _ _ => rd
  | .j _ => 0#5
  | .lw _ _ _ => 0#5

/-- The value it writes there. -/
def result (s : State) : Instr → Word
  | .ori _ rs imm => readReg s rs ||| zextImm imm
  | .add _ rs rt _ => readReg s rs + readReg s rt
  | .addu _ rs rt _ => readReg s rs + readReg s rt
  | .j _ => 0#32
  | .lw _ _ _ => 0#32

/-- The target it arms. -/
def armed (s : State) : Instr → Option Word
  | .ori _ _ _ => none
  | .add _ _ _ _ => none
  | .addu _ _ _ _ => none
  | .j target => if s.params.extJl then some (jumpTarget s.pc target) else none
  | .lw _ _ _ => none

/-- The load it issues. -/
def issues (s : State) : Instr → LoadSlot
  | .ori _ _ _ => LoadSlot.empty
  | .add _ _ _ _ => LoadSlot.empty
  | .addu _ _ _ _ => LoadSlot.empty
  | .j _ => LoadSlot.empty
  | .lw rt rs imm =>
    if s.params.extJl = true ∧ rt ≠ 0#5 then ⟨true, rt, dataWordAt s (effectiveAddress (readReg s rs) imm)⟩
    else LoadSlot.empty

/-- The events of its action, before phase 6. -/
def actionEvents (s : State) (i : Instr) : List Event :=
  if i.present s.params = false then [unknownInstructionEvent s.code]
  else if traps s i = true then [.logArithmeticOverflow (s.pc - 4#32)]
  else if writes s i ≠ 0#5 ∧ writes s i = s.params.spIndex
  then [.spWrite (readReg s s.params.spIndex) (result s i)] else []

/-- COP0 after it: that of the exception it takes, if it takes one. -/
def cop0After (s : State) (i : Instr) : Vector Word 32 :=
  if traps s i = true
  then (takeException .arithmeticOverflow s.inDelaySlot false (setPc (s.pc - 4#32) s)).cop0 else s.cop0

/-- The context that an instruction's action leaves, field by field. -/
structure Effect (s : State) (i : Instr) (c : StepCtx) : Prop where
  ds : c.ds = s.inDelaySlot
  exc : c.exc = traps s i
  arm : c.arm = armed s i
  oldValid : c.old.valid = loadLands s i
  oldReg : c.old.reg = s.ld.reg
  oldValue : c.old.value = s.ld.value
  new : c.new = issues s i
  pc : c.st.pc = if traps s i then s.params.excVector else s.pc
  inDelaySlot : c.st.inDelaySlot = s.inDelaySlot
  branchTarget : c.st.branchTarget = s.branchTarget
  reg : ∀ r, readReg c.st r = if writes s i ≠ 0#5 ∧ writes s i = r then result s i else readReg s r
  zeroCell : c.st.gpr[0] = s.gpr[0]
  cop0 : c.st.cop0 = cop0After s i
  events : c.st.events = s.events ++ actionEvents s i
  code : c.st.code = s.code
  cycle : c.st.cycle = s.cycle
  hi : c.st.hi = s.hi
  lo : c.st.lo = s.lo
  cop2 : c.st.cop2 = s.cop2
  icache : c.st.icache = s.icache
  settings : c.st.settings = s.settings
  params : c.st.params = s.params
  dataAnswers : c.st.dataAnswers = s.dataAnswers
  dataReads : c.st.dataReads = s.dataReads + if (issues s i).valid then 1 else 0

/-- The unimplemented word's action, as an instruction that is not present has it. -/
theorem unimplemented_effect {s : State} {i : Instr} (hp : i.present s.params = false) :
    Effect s i { beginStep s with st := emit (unknownInstructionEvent s.code) s } := by
  cases i <;> simp [Instr.present] at hp <;>
    constructor <;>
      simp [hp, traps, armed, loadLands, cancelsLoad, destination, issues, writes, cop0After, actionEvents,
        Instr.present]

theorem ori_effect (s : State) (rt rs : RegIdx) (imm : BitVec 16) :
    Effect s (.ori rt rs imm)
      (if rt = 0#5 then beginStep s
       else writeGPR rt (readReg s rs ||| zextImm imm) (cancelByRead rs rt (beginStep s))) := by
  by_cases h : rt = 0#5
  · constructor <;>
      simp [h, traps, armed, loadLands, cancelsLoad, destination, issues, writes, cop0After, actionEvents,
        Instr.present]
  · constructor <;>
      simp [h, traps, armed, loadLands, cancelsLoad, destination, issues, writes, cop0After, actionEvents, result,
        Instr.present, sources, commitReg_events]
    all_goals grind

theorem addu_effect (s : State) (rd rs rt : RegIdx) (sh : BitVec 5) :
    Effect s (.addu rd rs rt sh)
      (if rd = 0#5 then beginStep s
       else writeGPR rd (readReg s rs + readReg s rt) (cancelByRead rt rd (cancelByRead rs rd (beginStep s)))) := by
  by_cases h : rd = 0#5
  · constructor <;>
      simp [h, traps, armed, loadLands, cancelsLoad, destination, issues, writes, cop0After, actionEvents,
        Instr.present]
  · constructor <;>
      simp [h, traps, armed, loadLands, cancelsLoad, destination, issues, writes, cop0After, actionEvents, result,
        Instr.present, sources, commitReg_events]
    all_goals grind

theorem add_effect (s : State) (rd rs rt : RegIdx) (sh : BitVec 5) :
    Effect s (.add rd rs rt sh)
      (if s.settings.overflowCheck = true ∧ addOverflows (readReg s rs) (readReg s rt) = true
       then addTrap (cancelByRead rt rd (cancelByRead rs rd (beginStep s)))
       else writeGPR rd (readReg s rs + readReg s rt) (cancelByRead rt rd (cancelByRead rs rd (beginStep s)))) := by
  by_cases h : s.settings.overflowCheck = true ∧ addOverflows (readReg s rs) (readReg s rt) = true
  · constructor
    case cop0 => simp [h, traps, cop0After, addTrap_st]; rfl
    all_goals simp [h, traps, armed, loadLands, cancelsLoad, destination, issues, writes, actionEvents,
      Instr.present, sources, addTrap_st]
    all_goals grind
  · have ht : traps s (.add rd rs rt sh) = false := by simpa [traps] using h
    by_cases hd : rd = 0#5
    · constructor <;>
        simp [h, hd, traps, armed, loadLands, cancelsLoad, destination, issues, writes, cop0After, actionEvents,
          Instr.present]
      all_goals grind
    · constructor <;>
        simp [h, hd, ht, armed, loadLands, cancelsLoad, destination, issues, writes, cop0After, actionEvents,
          result, Instr.present, sources, commitReg_events]
      all_goals grind

theorem j_effect {s : State} (target : BitVec 26) (he : s.params.extJl = true) :
    Effect s (.j target) { beginStep s with arm := some (jumpTarget s.pc target) } := by
  constructor <;>
    simp [he, traps, armed, loadLands, cancelsLoad, destination, issues, writes, cop0After, actionEvents,
      Instr.present]

theorem lw_effect {s : State} (rt rs : RegIdx) (imm : BitVec 16) (he : s.params.extJl = true) :
    Effect s (.lw rt rs imm)
      (if rt = 0#5 then beginStep s
       else issueLoad rt (dataWordAt s (effectiveAddress (readReg s rs) imm))
        (dataRead32 (effectiveAddress (readReg s rs) imm) (cancelByRead rs rt (beginStep s))).2) := by
  have hr (f : State) (n : Nat) (r : RegIdx) : readReg { f with dataReads := n } r = readReg f r := rfl
  by_cases h : rt = 0#5
  · constructor <;>
      simp [he, h, traps, armed, loadLands, cancelsLoad, destination, issues, writes, cop0After, actionEvents,
        Instr.present]
  · constructor <;>
      simp [he, h, hr, traps, armed, loadLands, cancelsLoad, destination, issues, writes, cop0After, actionEvents,
        Instr.present, sources]
    all_goals grind

/-- Everything an instruction that is `OK` can do: its action leaves a context of this `Effect`, and phases 5 and 6
end the step. -/
theorem exec_effect {i : Instr} {s t : State} (h : exec i s = .next t) :
    ∃ c, t = endStep c ∧ Effect s i c := by
  cases i with
  | ori rt rs imm =>
    obtain ⟨c, hc, rfl⟩ := runAction_eq_next.1 h
    rw [oriAction_eq] at hc
    cases hc
    exact ⟨_, rfl, ori_effect s rt rs imm⟩
  | add rd rs rt sh =>
    obtain ⟨c, hc, rfl⟩ := runAction_eq_next.1 h
    rw [addAction_eq] at hc
    cases hc
    exact ⟨_, rfl, add_effect s rd rs rt sh⟩
  | addu rd rs rt sh =>
    obtain ⟨c, hc, rfl⟩ := runAction_eq_next.1 h
    rw [adduAction_eq] at hc
    cases hc
    exact ⟨_, rfl, addu_effect s rd rs rt sh⟩
  | j target =>
    simp only [exec, execJ] at h
    split at h <;> rename_i he
    · obtain ⟨c, hc, rfl⟩ := runAction_eq_next.1 h
      unfold jAction at hc
      split at hc
      · cases hc
      · cases hc; exact ⟨_, rfl, j_effect target he⟩
    · obtain ⟨c, hc, rfl⟩ := runAction_eq_next.1 h
      cases hc
      exact ⟨_, rfl, unimplemented_effect (by simpa [Instr.present] using he)⟩
  | lw rt rs imm =>
    simp only [exec, execLw] at h
    split at h <;> rename_i he
    · obtain ⟨c, hc, rfl⟩ := runAction_eq_next.1 h
      have hl := lw_effect rt rs imm he
      rcases lwAction_eq_next.1 hc with ⟨h0, rfl⟩ | ⟨h0, -, rfl⟩
      · rw [if_pos h0] at hl; exact ⟨_, rfl, hl⟩
      · rw [if_neg h0] at hl; exact ⟨_, rfl, hl⟩
    · obtain ⟨c, hc, rfl⟩ := runAction_eq_next.1 h
      cases hc
      exact ⟨_, rfl, unimplemented_effect (by simpa [Instr.present] using he)⟩

/-- An instruction is `OK` but for the two forms of 40_step_fetch_dispatch.md R101. -/
theorem exec_outcome (i : Instr) (s : State) :
    (∃ t, exec i s = .next t) ∨
    (∃ target, i = .j target ∧ s.params.extJl = true ∧ s.inDelaySlot = true ∧
      exec i s = .fault (.branchInDelaySlot (s.pc - 4#32))) ∨
    (∃ rt rs imm, i = .lw rt rs imm ∧ s.params.extJl = true ∧ rt ≠ 0#5 ∧
      ¬ Aligned (effectiveAddress (readReg s rs) imm) ∧
      exec i s = .fault (.misalignedLoad (effectiveAddress (readReg s rs) imm))) := by
  cases i with
  | ori rt rs imm => exact .inl ⟨_, runAction_eq_next.2 ⟨_, oriAction_eq .., rfl⟩⟩
  | add rd rs rt sh => exact .inl ⟨_, runAction_eq_next.2 ⟨_, addAction_eq .., rfl⟩⟩
  | addu rd rs rt sh => exact .inl ⟨_, runAction_eq_next.2 ⟨_, adduAction_eq .., rfl⟩⟩
  | j target =>
    by_cases he : s.params.extJl = true
    · by_cases hd : s.inDelaySlot = true
      · exact .inr (.inl ⟨target, rfl, he, hd, by simp [exec, execJ, he, runAction, jAction, hd]⟩)
      · exact .inl ⟨_, by simp only [exec, execJ, he, if_true, runAction, jAction, beginStep_ds, hd]; rfl⟩
    · exact .inl ⟨_, by simp only [exec, execJ, he]; rfl⟩
  | lw rt rs imm =>
    by_cases he : s.params.extJl = true
    · by_cases h0 : rt = 0#5
      · exact .inl ⟨_, by
          simp only [exec, execLw, he, if_true]
          exact runAction_eq_next.2 ⟨_, lwAction_eq_next.2 (.inl ⟨h0, rfl⟩), rfl⟩⟩
      · by_cases ha : Aligned (effectiveAddress (readReg s rs) imm)
        · exact .inl ⟨_, by
            simp only [exec, execLw, he, if_true]
            exact runAction_eq_next.2 ⟨_, lwAction_eq_next.2 (.inr ⟨h0, ha, rfl⟩), rfl⟩⟩
        · refine .inr (.inr ⟨rt, rs, imm, rfl, he, h0, ha, ?_⟩)
          simp only [exec, execLw, he, if_true]
          exact runAction_eq_fault.2 (lwAction_eq_fault.2 ⟨h0, ha, rfl⟩)
    · exact .inl ⟨_, by simp only [exec, execLw, he]; rfl⟩

/-- J in a delay slot, where it exists (43_control_transfer.md R176). -/
theorem exec_j_eq_fault {target : BitVec 26} {s : State} (he : s.params.extJl = true)
    (hd : s.inDelaySlot = true) : exec (.j target) s = .fault (.branchInDelaySlot (s.pc - 4#32)) := by
  rcases exec_outcome (.j target) s with ⟨t, h⟩ | ⟨_, _, _, _, h⟩ | ⟨_, _, _, h, _⟩
  · simp [exec, execJ, he, runAction, jAction, hd] at h
  · exact h
  · cases h

/-- LW at a misaligned address, where it exists and has a destination (44_loads.md R211). -/
theorem exec_lw_eq_fault {rt rs : RegIdx} {imm : BitVec 16} {s : State} (he : s.params.extJl = true)
    (h0 : rt ≠ 0#5) (ha : ¬ Aligned (effectiveAddress (readReg s rs) imm)) :
    exec (.lw rt rs imm) s = .fault (.misalignedLoad (effectiveAddress (readReg s rs) imm)) := by
  simp only [exec, execLw, he, if_true]
  exact runAction_eq_fault.2 (lwAction_eq_fault.2 ⟨h0, ha, rfl⟩)

/-- The unimplemented word's step part: one event, then phases 5 and 6. -/
theorem execUnimplemented_eq (s : State) :
    execUnimplemented s =
      .next (endStep { beginStep s with st := emit (unknownInstructionEvent s.code) s }) := rfl

/-- Where the profile is absent, J and LW are unimplemented (40_step_fetch_dispatch.md R110). -/
theorem exec_of_not_present {i : Instr} {s : State} (h : i.present s.params = false) :
    exec i s = execUnimplemented s := by
  cases i <;> simp [Instr.present] at h <;> simp [exec, execJ, execLw, h]

end Sys2Proof.Machine
end

