-- ==== Sys2Proof/Laws/Memory.lean ====
section
/-! SUPPORT. The instruction store: every operation keeps the canonical form, and a read after a write. -/

namespace Sys2Proof.Machine

theorem Memory.wf_nil : Memory.wf [] := by decide

/-- The tail of a store in canonical form is in that form. -/
theorem Memory.wf_tail {c : Host.Cell} {m : Memory} (h : Memory.wf (c :: m)) : Memory.wf m :=
  ⟨(List.pairwise_cons.1 h.1).2, fun d hd => h.2 d (List.mem_cons_of_mem _ hd)⟩

/-- The head of a store in canonical form lies below the rest. -/
theorem Memory.wf_head {k : Nat} {v : Byte} {m : Memory} (h : Memory.wf ((k, v) :: m)) :
    ∀ c ∈ m, k < c.1 := (List.pairwise_cons.1 h.1).1

/-- An offset that lies below every cell reads as the reset content. -/
theorem Memory.read_of_lt {m : Memory} {a : Nat} (h : ∀ c ∈ m, a < c.1) : m.read a = 0#8 := by
  induction m with
  | nil => rfl
  | cons c m ih =>
    have hc := h c List.mem_cons_self
    have : ¬ c.1 = a := by omega
    simp only [Memory.read, this, if_false]
    exact ih fun d hd => h d (List.mem_cons_of_mem _ hd)

theorem Memory.mem_put {a : Nat} {b : Byte} {m : Memory} {c : Host.Cell} (h : c ∈ Memory.put a b m) :
    c ∈ m ∨ (c = (a, b) ∧ b ≠ 0#8) := by
  unfold Memory.put at h
  split at h
  · exact .inl h
  · rename_i hb
    rcases List.mem_cons.1 h with h | h
    · exact .inr ⟨h, hb⟩
    · exact .inl h

/-- A write lists no offset but its own and those listed before. -/
theorem Memory.mem_write {m : Memory} {a : Nat} {b : Byte} {c : Host.Cell} (h : c ∈ m.write a b) :
    c ∈ m ∨ (c = (a, b) ∧ b ≠ 0#8) := by
  induction m with
  | nil => exact Memory.mem_put h
  | cons d m ih =>
    unfold Memory.write at h
    split at h
    · exact Memory.mem_put h
    · split at h
      · rcases Memory.mem_put h with h | h
        · exact .inl (List.mem_cons_of_mem _ h)
        · exact .inr h
      · rcases List.mem_cons.1 h with h | h
        · exact .inl (h ▸ List.mem_cons_self)
        · rcases ih h with h | h
          · exact .inl (List.mem_cons_of_mem _ h)
          · exact .inr h

theorem Memory.wf_put {a : Nat} {b : Byte} {m : Memory} (h : m.wf) (ha : ∀ c ∈ m, a < c.1) :
    (Memory.put a b m).wf := by
  unfold Memory.put
  split
  · exact h
  · rename_i hb
    refine ⟨List.pairwise_cons.2 ⟨ha, h.1⟩, fun c hc => ?_⟩
    rcases List.mem_cons.1 hc with rfl | hc
    · exact hb
    · exact h.2 c hc

/-- A write keeps the canonical form. -/
theorem Memory.write_keeps_wf {m : Memory} (h : m.wf) (a : Nat) (b : Byte) : (m.write a b).wf := by
  induction m with
  | nil => exact Memory.wf_put h (by simp)
  | cons c m ih =>
    obtain ⟨k, v⟩ := c
    have hk := Memory.wf_head h
    unfold Memory.write
    split <;> rename_i h1
    · refine Memory.wf_put h fun c hc => ?_
      rcases List.mem_cons.1 hc with rfl | hc
      · exact h1
      · exact Nat.lt_trans h1 (hk c hc)
    · split <;> rename_i h2
      · exact Memory.wf_put (Memory.wf_tail h) (h2 ▸ hk)
      · have hm := ih (Memory.wf_tail h)
        refine ⟨List.pairwise_cons.2 ⟨fun c hc => ?_, hm.1⟩, fun c hc => ?_⟩
        · rcases Memory.mem_write hc with hc | ⟨rfl, -⟩
          · exact hk c hc
          · simp only; omega
        · rcases List.mem_cons.1 hc with rfl | hc
          · exact h.2 _ List.mem_cons_self
          · exact hm.2 c hc

theorem Memory.read_put {a : Nat} {b : Byte} {m : Memory} (ha : m.read a = 0#8) (x : Nat) :
    (Memory.put a b m).read x = if x = a then b else m.read x := by
  unfold Memory.put
  split
  · split <;> simp_all
  · by_cases hx : x = a
    · simp [Memory.read, hx]
    · simp [Memory.read, hx, Ne.symm hx]

/-- A read after a write gives the byte written, and every other byte as before. -/
theorem Memory.read_write {m : Memory} (h : m.wf) (a : Nat) (b : Byte) (x : Nat) :
    (m.write a b).read x = if x = a then b else m.read x := by
  induction m with
  | nil => exact Memory.read_put rfl x
  | cons c m ih =>
    obtain ⟨k, v⟩ := c
    have hk := Memory.wf_head h
    unfold Memory.write
    split <;> rename_i h1
    · refine Memory.read_put (Memory.read_of_lt fun c hc => ?_) x
      rcases List.mem_cons.1 hc with rfl | hc
      · exact h1
      · exact Nat.lt_trans h1 (hk c hc)
    · split <;> rename_i h2
      · subst h2
        rw [Memory.read_put (Memory.read_of_lt hk)]
        by_cases hx : x = a
        · simp [hx]
        · simp [Memory.read, hx, Ne.symm hx]
      · simp only [Memory.read, ih (Memory.wf_tail h)]
        by_cases hx : k = x
        · subst hx; simp [Ne.symm h2]
        · simp [hx]

/-- Writing bytes one after another keeps the canonical form. -/
theorem Memory.writeBytes_keeps_wf {m : Memory} (h : m.wf) (a : Nat) (bs : List Byte) : (m.writeBytes a bs).wf := by
  induction bs generalizing m a with
  | nil => exact h
  | cons b bs ih => exact ih (Memory.write_keeps_wf h a b) (a + 1)

/-- The bytes listed after writing bytes were there, or lie in the range written. -/
theorem Memory.mem_writeBytes {m : Memory} {a : Nat} {bs : List Byte} {c : Host.Cell}
    (h : c ∈ m.writeBytes a bs) : c ∈ m ∨ (a ≤ c.1 ∧ c.1 < a + bs.length) := by
  induction bs generalizing m a with
  | nil => exact .inl h
  | cons b bs ih =>
    rcases ih h with h | h
    · rcases Memory.mem_write h with h | ⟨rfl, -⟩
      · exact .inl h
      · right; simp
    · right; simp only [List.length_cons]; omega

/-- Reading after writing bytes one after another. -/
theorem Memory.read_writeBytes {m : Memory} (h : m.wf) (a : Nat) (bs : List Byte) (x : Nat) :
    (m.writeBytes a bs).read x = if a ≤ x then bs[x - a]?.getD (m.read x) else m.read x := by
  induction bs generalizing m a with
  | nil => simp [Memory.writeBytes]
  | cons b bs ih =>
    simp only [Memory.writeBytes, ih (Memory.write_keeps_wf h a b), Memory.read_write h]
    by_cases h1 : x = a
    · subst h1; simp
    · by_cases h2 : a ≤ x
      · have h3 : a + 1 ≤ x := by omega
        have h4 : x - a = (x - (a + 1)) + 1 := by omega
        simp [h1, h2, h3, h4]
      · have h3 : ¬ a + 1 ≤ x := by omega
        simp [h1, h2, h3]

/-- The reset store is in canonical form. -/
theorem reset_icache_wf : State.reset.icache.wf := Memory.wf_nil

/-- A byte that the host writes keeps the canonical form. -/
theorem writeICache_keeps_wf {s s' : State} {o : Nat} {b : Byte} (h : s.icache.wf)
    (hw : writeICache o b s = some s') : s'.icache.wf := by
  unfold writeICache at hw
  split at hw
  · obtain rfl := Option.some.inj hw
    exact Memory.write_keeps_wf h o b
  · cases hw

/-- A program image keeps the canonical form. -/
theorem writeImage_keeps_wf {s s' : State} {o : Nat} {bs : List Byte} (h : s.icache.wf)
    (hw : writeImage o bs s = some s') : s'.icache.wf := by
  induction bs generalizing s o with
  | nil => obtain rfl := Option.some.inj hw; exact h
  | cons b bs ih =>
    unfold writeImage at hw
    split at hw
    · cases hw
    · rename_i s₁ h₁
      exact ih (writeICache_keeps_wf h h₁) hw

/-- A word placed at `pc` keeps the canonical form. -/
theorem placeAtPc_keeps_wf {s : State} {w : Word} (h : s.icache.wf) : (placeAtPc w s).icache.wf := by
  unfold placeAtPc
  split
  · exact h
  · exact Memory.writeBytes_keeps_wf h _ _

/-! ## Bytes and words -/

/-- Byte `k` of a word put together from four bytes is its `k`-th byte (20_memory.md R52). -/
theorem byteOfWord_wordOfBytes (b0 b1 b2 b3 : Byte) :
    byteOfWord (wordOfBytes b0 b1 b2 b3) 0 = b0 ∧ byteOfWord (wordOfBytes b0 b1 b2 b3) 1 = b1 ∧
    byteOfWord (wordOfBytes b0 b1 b2 b3) 2 = b2 ∧ byteOfWord (wordOfBytes b0 b1 b2 b3) 3 = b3 := by
  refine ⟨?_, ?_, ?_, ?_⟩ <;>
  · apply BitVec.eq_of_getLsbD_eq
    intro i hi
    simp only [byteOfWord, wordOfBytes, BitVec.getLsbD_extractLsb', BitVec.getLsbD_append, hi, decide_true,
      Bool.true_and]
    repeat' split
    all_goals first | (exfalso; omega) | (congr 1; omega)

/-- A word is put together from its four bytes. -/
theorem wordOfBytes_byteOfWord (w : Word) :
    wordOfBytes (byteOfWord w 0) (byteOfWord w 1) (byteOfWord w 2) (byteOfWord w 3) = w := by
  apply BitVec.eq_of_getLsbD_eq
  intro i hi
  simp only [byteOfWord, wordOfBytes, BitVec.getLsbD_extractLsb', BitVec.getLsbD_append]
  repeat' split
  all_goals (rename_i h; rw [decide_eq_true (by omega), Bool.true_and]; congr 1; omega)

end Sys2Proof.Machine
end

