-- ==== Sys2Proof/Laws/PerInstr.lean ====
section
/-! SUPPORT. One lemma for each constructor of `Instr`: its encoding lies in its own row of the opcode table
(30_encoding.md R78). -/

namespace Sys2Proof.Laws.TableRow

/-- `(w & mask) == match` holds of the instruction's word and the instruction's row. -/
def Statement (i : Instr) : Prop := encode i &&& i.row.mask = i.row.pattern

theorem ori (rt rs : RegIdx) (imm : BitVec 16) : Statement (.ori rt rs imm) :=
  (opMask_iff _ 0x0D#6).2 (encodeI_slices 0x0D#6 rs rt imm).1

theorem add (rd rs rt : RegIdx) (shamt : BitVec 5) : Statement (.add rd rs rt shamt) :=
  have h := encodeR_slices rs rt rd shamt 0x20#6
  (functMask_iff _ 0x20#6).2 ⟨h.1, h.2.2.2.2.2⟩

theorem addu (rd rs rt : RegIdx) (shamt : BitVec 5) : Statement (.addu rd rs rt shamt) :=
  have h := encodeR_slices rs rt rd shamt 0x21#6
  (functMask_iff _ 0x21#6).2 ⟨h.1, h.2.2.2.2.2⟩

theorem j (target : BitVec 26) : Statement (.j target) :=
  (opMask_iff _ 0x02#6).2 (encodeJ_slices 0x02#6 target).1

theorem lw (rt rs : RegIdx) (imm : BitVec 16) : Statement (.lw rt rs imm) :=
  (opMask_iff _ 0x23#6).2 (encodeI_slices 0x23#6 rs rt imm).1

end Sys2Proof.Laws.TableRow
end

