-- ==== Sys2Proof/Laws/Step.lean ====
section
/-! SUPPORT. What one step can do: the fetch, then the instruction's effect or the logged no-op, then phases 5
and 6; or one of the three fatal ends. -/

namespace Sys2Proof.Machine

/-- A word is fetched exactly at a multiple of 4 whose bytes are inside the store (20_memory.md R52). -/
theorem iFetch_eq_some {s : State} {a w : Word} :
    iFetch s a = some w ↔
      (Aligned a ∧ a.toNat + 4 ≤ s.params.icacheBytes) ∧ w = s.icache.readWord a.toNat := by
  unfold iFetch
  by_cases h : ¬ Aligned a ∨ s.params.icacheBytes < a.toNat + 4
  · rw [if_pos h]
    constructor
    · intro h'; cases h'
    · rintro ⟨⟨h1, h2⟩, -⟩
      rcases h with h | h
      · exact absurd h1 h
      · omega
  · rw [if_neg h]
    have h1 : Aligned a := by by_contra h1; exact h (.inl h1)
    have h2 : a.toNat + 4 ≤ s.params.icacheBytes := by by_contra h2; exact h (.inr (by omega))
    simp [h1, h2, eq_comm]

theorem iFetch_eq_none {s : State} {a : Word} :
    iFetch s a = none ↔ ¬ (Aligned a ∧ a.toNat + 4 ≤ s.params.icacheBytes) := by
  cases h : iFetch s a with
  | none =>
    refine ⟨fun _ hh => ?_, fun _ => rfl⟩
    have := iFetch_eq_some.2 ⟨hh, rfl⟩
    rw [h] at this; cases this
  | some w => simp [(iFetch_eq_some.1 h).1]

/-- A step whose fetch is out of range is fatal. -/
theorem step_of_iFetch_none {s : State} (h : iFetch s s.pc = none) :
    step s = .fault (.fetchOutOfRange s.pc) := by
  simp [step, fetch, h]

/-- A step whose word is an instruction is that instruction, after the fetch. -/
theorem step_of_decode_ok {s : State} {w : Word} {i : Instr} (h : iFetch s s.pc = some w)
    (hd : decode w = .ok i) : step s = exec i (afterFetch w s) := by
  simp [step, fetch, h, decodeAndExec, hd]

/-- A step whose word is no instruction is the logged no-op, after the fetch. -/
theorem step_of_decode_error {s : State} {w : Word} {e : DecodeReject} (h : iFetch s s.pc = some w)
    (hd : decode w = .error e) : step s = execUnimplemented (afterFetch w s) := by
  simp [step, fetch, h, decodeAndExec, hd]

/-- The context of the logged no-op. -/
def noOpCtx (s : State) : StepCtx := { beginStep s with st := emit (unknownInstructionEvent s.code) s }

/-- Everything a step that is `OK` can do. -/
theorem step_cases {s t : State} (h : step s = .next t) :
    ∃ w, iFetch s s.pc = some w ∧
      ((∃ i c, decode w = .ok i ∧ t = endStep c ∧ Effect (afterFetch w s) i c) ∨
       (∃ e, decode w = .error e ∧ t = endStep (noOpCtx (afterFetch w s)))) := by
  cases hf : iFetch s s.pc with
  | none => rw [step_of_iFetch_none hf] at h; cases h
  | some w =>
    refine ⟨w, rfl, ?_⟩
    cases hd : decode w with
    | ok i =>
      rw [step_of_decode_ok hf hd] at h
      obtain ⟨c, rfl, hc⟩ := exec_effect h
      exact .inl ⟨i, c, rfl, rfl, hc⟩
    | error e =>
      rw [step_of_decode_error hf hd, execUnimplemented_eq] at h
      cases h
      exact .inr ⟨e, rfl, rfl⟩

/-! ## Runs -/

theorem core_run_zero (s : State) : Sys2Proof.core.run 0 s = .next s := rfl

/-- A run of one step more is the step, then the run. -/
theorem core_run_succ (n : Nat) (s : State) :
    Sys2Proof.core.run (n + 1) s =
      (match step s with
       | .next s' => Sys2Proof.core.run n s'
       | .fault r => .fault r
       | .refused r => .refused r) := by
  have h : Sys2Proof.core.step s = step s := rfl
  simp only [Host.Core.run, h]
  cases step s <;> rfl

end Sys2Proof.Machine
end

