-- ==== Sys2Proof/Tests/Slice0.lean ====
section
/-! SUPPORT. The model's own tests, then a witness for the hypotheses of every statement. Expected values are the
spec's: 30_encoding.md R78 to R83 and 95_test_vectors.md, whose vector each comment names. `base` and `ext` have the
parameters of that file's "Test configuration". -/

open Sys2Proof Sys2Proof.Machine

namespace Sys2Proof.Tests

/-! ## Helpers -/

/-- The parameters of the CORE vectors. -/
def coreParams : Params := ⟨256, 1#32, 0x80#32, 29#5, true, false, false, 0#2⟩

/-- The parameters of the EXT vectors. -/
def extParams : Params := { coreParams with extJl := true }

/-- The launch state with the words `ws` at offset 0. -/
def boot (p : Params) (ws : List Word) : State :=
  { State.zeroed p with
    icache := Memory.writeBytes [] 0 (ws.flatMap fun w => (List.range 4).map (byteOfWord w)) }

/-- The CORE launch state. -/
def base (ws : List Word) : State := boot coreParams ws

/-- The EXT launch state, with the data memory of the vectors. -/
def ext (ws : List Word) : State :=
  { boot extParams ws with dataAnswers := [(0x100#32, 0xDEADBEEF#32), (0x104#32, 0x11111111#32)] }

/-- `settings.overflow_check` true, `x[8]` = 0x7FFFFFFF and `x[9]` = 1. -/
def overflowing (s : State) : State :=
  writeReg 8#5 0x7FFFFFFF#32 (writeReg 9#5 1#32 (writeSettings true s))

/-- The outcome is a next state of which `f` holds. -/
def passes (o : Host.Outcome State Fault Refusal) (f : State → Bool) : Bool :=
  match o with
  | .next t => f t
  | .fault _ => false
  | .refused _ => false

theorem exists_of_passes {o : Host.Outcome State Fault Refusal} {f : State → Bool} (h : passes o f = true) :
    ∃ t, o = .next t ∧ f t = true := by
  cases o with
  | next t => exact ⟨t, rfl, h⟩
  | fault r => cases h
  | refused r => cases h

/-- The outcome is this fault. -/
def faults (o : Host.Outcome State Fault Refusal) (r : Fault) : Bool :=
  match o with
  | .next _ => false
  | .fault r' => r' = r
  | .refused _ => false

/-! ## Decoding: words written out from the patterns of 30_encoding.md R78 -/

/-- `001101 01001 01000 1111111111111111`: `ori t0, t1, 0xFFFF` (V-ORI-1). -/
theorem test_decode_ori :
    decode 0b00110101001010001111111111111111#32 = .ok (.ori 8#5 9#5 0xFFFF#16) := by decide

/-- `000000 01000 01001 01010 00011 100000`: `add t2, t0, t1` with `shamt` 3 (V-ADD-14). -/
theorem test_decode_add :
    decode 0b00000001000010010101000011100000#32 = .ok (.add 10#5 8#5 9#5 3#5) := by decide

/-- `000000 11101 01000 11101 00000 100001`: `addu sp, sp, t0` (V-ADD-15). -/
theorem test_decode_addu :
    decode 0b00000011101010001110100000100001#32 = .ok (.addu 29#5 29#5 8#5 0#5) := by decide

/-- `000010 00000000000000000000001000`: `j 0x20` (V-J-1). -/
theorem test_decode_j : decode 0b00001000000000000000000000001000#32 = .ok (.j 8#26) := by decide

/-- `100011 01001 01000 1111111111111100`: `lw t0, -4(t1)` (V-LD-9). -/
theorem test_decode_lw :
    decode 0b10001101001010001111111111111100#32 = .ok (.lw 8#5 9#5 0xFFFC#16) := by decide

/-- V-UN-1 to V-UN-4: unimplemented words are rejected by name. -/
theorem test_decode_rejects :
    decode 0x00000000#32 = .error (.unknownFunct 0x00#6) ∧
    decode 0xFFFFFFFC#32 = .error (.unknownOpcode 0x3F#6) ∧
    decode 0x01095022#32 = .error (.unknownFunct 0x22#6) ∧
    decode 0x3C010001#32 = .error (.unknownOpcode 0x0F#6) ∧
    decodeBytes [0x00#8] = .error (.notOneWord 1) := by decide

/-- 30_encoding.md R81, R82: the fields of `j addr` and the words of the pseudo-instructions. -/
theorem test_pseudo_instructions :
    encode Instr.nop = 0x34000000#32 ∧ encode (Instr.li 8#5 0x22#16) = 0x34080022#32 ∧
    encode (Instr.move 10#5 8#5) = 0x01005021#32 ∧ encode (Instr.jumpTo 0x20#32) = 0x08000008#32 := by decide

/-- 30_encoding.md R83: the least significant byte of the word is the first byte in the store. -/
theorem test_decode_bytes :
    decodeBytes [0x21#8, 0x50#8, 0x09#8, 0x01#8] = .ok (.addu 10#5 8#5 9#5 0#5) ∧
    encodeBytes (.addu 10#5 8#5 9#5 0#5) = [0x21#8, 0x50#8, 0x09#8, 0x01#8] := by decide

/-- The table's numbering of a word. -/
theorem test_decodeTableWord : decodeTableWord 32 0x34080022 = some (.ori 8#5 0#5 34#16) := by decide

/-! ## WellFormed: a term that each check refuses -/

theorem test_wf_accepts : coreParams.wf ∧ extParams.wf := by decide

/-- A capacity that is no multiple of 4, one that is 0, and one above 2^32. -/
theorem test_wf_refuses_capacity :
    ¬ Params.wf { coreParams with icacheBytes := 258 } ∧ ¬ Params.wf { coreParams with icacheBytes := 0 } ∧
    ¬ Params.wf { coreParams with icacheBytes := 2 ^ 32 + 4 } := by decide

theorem test_wf_refuses_vector : ¬ Params.wf { coreParams with excVector := 0x82#32 } := by decide

theorem test_wf_refuses_stack_pointer_zero : ¬ Params.wf { coreParams with spIndex := 0#5 } := by decide

/-- J and LW exist only in the profile GFE-EXT-JL. -/
theorem test_present_refuses :
    (Instr.j 4#26).present coreParams = false ∧ (Instr.lw 8#5 0#5 0#16).present coreParams = false ∧
    (Instr.j 4#26).present extParams = true ∧ (Instr.lw 8#5 0#5 0#16).present extParams = true := by decide

/-! ## One step -/

/-- V-ORI-1. -/
theorem test_ori_zero_extends :
    passes (step (writeReg 9#5 0x12340000#32 (base [0x3528FFFF#32])))
      (fun t => readReg t 8#5 = 0x1234FFFF#32 && t.pc = 4#32 && t.events.isEmpty) = true := by decide

/-- V-ORI-6. -/
theorem test_ori_stack_pointer :
    passes (step (writeReg 29#5 0x20#32 (base [0x341D1000#32])))
      (fun t => readReg t 29#5 = 0x1000#32 && t.events = [.spWrite 0x20#32 0x1000#32]) = true := by decide

/-- L1-3. -/
theorem test_add_traps :
    passes (step (overflowing (base [0x01095020#32])))
      (fun t => readReg t 10#5 = 0#32 && t.pc = 0x80#32 && readCop0 t 14#5 = 0#32 && readCop0 t 13#5 = 0x30#32 &&
        readCop0 t 12#5 = 0#32 && t.cycle = 1#32 && t.code = 0x01095020#32 &&
        t.events = [.logArithmeticOverflow 0#32]) = true := by decide

/-- V-EX-4: the trap in a delay slot, with every bit of CAUSE set before. -/
theorem test_add_traps_in_delay_slot :
    passes (step { overflowing (writeCop0 12#5 0x3F#32 (writeCop0 13#5 0xFFFFFFFF#32 (ext [0#32, 0x01095020#32])))
        with pc := 4#32, inDelaySlot := true, branchTarget := 0x10#32 })
      (fun t => t.pc = 0x80#32 && t.inDelaySlot = false && readCop0 t 14#5 = 4#32 &&
        readCop0 t 13#5 = 0xCFFFFFB3#32 && readCop0 t 12#5 = 0x3C#32) = true := by decide

/-- V-ADD-1, ADDU with checking on. -/
theorem test_addu_wraps :
    passes (step (overflowing (base [0x01095021#32])))
      (fun t => readReg t 10#5 = 0x80000000#32 && t.pc = 4#32 && t.events.isEmpty) = true := by decide

/-- V-ADD-15. -/
theorem test_addu_stack_pointer :
    passes (step (writeReg 29#5 0x1000#32 (writeReg 8#5 0xFFFFFFF0#32 (base [0x03A8E821#32]))))
      (fun t => readReg t 29#5 = 0xFF0#32 && t.events = [.spWrite 0x1000#32 0xFF0#32]) = true := by decide

/-- V-J-1. -/
theorem test_j_arms :
    passes (step (ext [0x08000008#32]))
      (fun t => t.pc = 4#32 && t.inDelaySlot && t.branchTarget = 0x20#32) = true := by decide

/-- V-J-4: the top bits of the target are those of the delay slot's offset. -/
theorem test_j_target :
    jumpTarget 0x10000000#32 0x3FFFFFF#26 = 0x1FFFFFFC#32 ∧ jumpTarget 0x0FFFFFFC#32 0x3FFFFFF#26 = 0x0FFFFFFC#32 := by
  decide

/-- V-LD-9, step 1: a negative offset. -/
theorem test_lw_issues :
    passes (step (writeReg 9#5 0x104#32 (ext [0x8D28FFFC#32])))
      (fun t => t.ld = ⟨true, 8#5, 0xDEADBEEF#32⟩ && readReg t 8#5 = 0#32 && readReg t 9#5 = 0x104#32) = true := by
  decide

/-- V-LD-8. -/
theorem test_lw_misaligned : faults (step (ext [0x8C080101#32])) (.misalignedLoad 0x101#32) = true := by decide

/-- V-UN-5: the J word where `EXT_JL` is false. -/
theorem test_unimplemented_word :
    passes (step (base [0x08000004#32]))
      (fun t => t.pc = 4#32 && t.cycle = 1#32 && t.code = 0x08000004#32 && !t.inDelaySlot &&
        t.events = [.logUnknownInstruction 0x08000004#32 0x02#6 0x04#6]) = true := by decide

/-- V-F-2. -/
theorem test_fetch_out_of_range :
    faults (step { base [] with pc := 0x100#32 }) (.fetchOutOfRange 0x100#32) = true := by decide

/-- The word that the host places after reset runs (log entry 14): P1, step 1. -/
theorem test_first_word_after_reset :
    passes (step (State.reset.withFetchWord 32 0x34080022)) (fun t => readReg t 8#5 = 34#32 && t.pc = 4#32) = true := by
  decide

/-! ## Witnesses: concrete states and operands that meet each statement's hypotheses -/

theorem witness_EncodeOfDecodeGivesTheWordBack : decode 0x34080022#32 = .ok (.ori 8#5 0#5 34#16) := by decide

theorem witness_StepRunsTheDecodedInstruction :
    iFetch (base [0x34080022#32]) 0#32 = some 0x34080022#32 ∧ decode 0x34080022#32 = .ok (.ori 8#5 0#5 34#16) := by
  decide

/-- The last word of the store, and outside both conditions: one word beyond it, and an odd halfword. -/
theorem witness_FetchIsLittleEndianOrFatal :
    (Aligned 0xFC#32 ∧ (0xFC#32).toNat + 4 ≤ (base []).params.icacheBytes) ∧
    ¬ (Aligned 0x100#32 ∧ (0x100#32).toNat + 4 ≤ (base []).params.icacheBytes) ∧
    ¬ (Aligned 0x02#32 ∧ (0x02#32).toNat + 4 ≤ (base []).params.icacheBytes) := by decide

/-- For every statement whose hypothesis is one `OK` step: the trapping ADD, and the logged no-op. -/
theorem witness_OkStep :
    (∃ t, step (overflowing (base [0x01095020#32])) = .next t ∧ (t.pc = 0x80#32 : Bool)) ∧
    (∃ t, step (base []) = .next t ∧ (t.pc = 4#32 : Bool)) :=
  ⟨exists_of_passes (by decide), exists_of_passes (by decide)⟩

/-- Each of the three fatal ends is reached. -/
theorem witness_StepIsFatalExactlyAsListed :
    faults (step { base [] with pc := 0x100#32 }) (.fetchOutOfRange 0x100#32) = true ∧
    faults (step { ext [0x08000004#32] with inDelaySlot := true }) (.branchInDelaySlot 0#32) = true ∧
    faults (step (ext [0x8C080101#32])) (.misalignedLoad 0x101#32) = true := by decide

/-- An unknown word; a J word and an LW word in GFE-CORE. -/
theorem witness_UnimplementedWordIsALoggedNoOp :
    (iFetch (base [0xFFFFFFFC#32]) 0#32 = some 0xFFFFFFFC#32 ∧ ∃ e, decode 0xFFFFFFFC#32 = .error e) ∧
    (iFetch (base [0x08000004#32]) 0#32 = some 0x08000004#32 ∧
      ∃ i, decode 0x08000004#32 = .ok i ∧ i.present coreParams = false) ∧
    (iFetch (base [0x8C080000#32]) 0#32 = some 0x8C080000#32 ∧
      ∃ i, decode 0x8C080000#32 = .ok i ∧ i.present coreParams = false) :=
  ⟨⟨by decide, _, rfl⟩, ⟨by decide, _, rfl, rfl⟩, ⟨by decide, _, rfl, rfl⟩⟩

/-- A destination other than register 0, at both ends of its range. -/
theorem witness_OriWritesTheOrOfTheZeroExtendedImmediate : (1#5 : RegIdx) ≠ 0#5 ∧ (31#5 : RegIdx) ≠ 0#5 := by decide

theorem witness_DestinationZeroHasNoEffectOfItsOwn :
    (∃ rs imm, Instr.ori 0#5 9#5 5#16 = .ori 0#5 rs imm) ∧ (∃ rs rt h, Instr.addu 0#5 8#5 0#5 0#5 = .addu 0#5 rs rt h) ∧
    (∃ rs imm, Instr.lw 0#5 0#5 0x101#16 = .lw 0#5 rs imm ∧ (ext []).params.extJl = true) :=
  ⟨⟨_, _, rfl⟩, ⟨_, _, _, rfl⟩, ⟨_, _, rfl, rfl⟩⟩

/-- Overflow with checking off, and the largest sum that does not overflow with checking on (V-ADD-8). -/
theorem witness_AddCommitsTheSumWhenItDoesNotTrap :
    (let s := writeSettings false (overflowing (base []))
     ¬ (s.settings.overflowCheck = true ∧
      (readReg s 8#5).toInt + (readReg s 9#5).toInt ≠ (readReg s 8#5 + readReg s 9#5).toInt)) ∧
    (let s := writeReg 8#5 0x3FFFFFFF#32 (writeReg 9#5 0x40000000#32 (writeSettings true (base [])))
     ¬ (s.settings.overflowCheck = true ∧
      (readReg s 8#5).toInt + (readReg s 9#5).toInt ≠ (readReg s 8#5 + readReg s 9#5).toInt)) := by decide

theorem witness_AddWithCheckingOffIsTheNonTrappingAdd :
    let s := writeSettings false (overflowing (base []))
    s.settings.overflowCheck = false ∧ readReg s 8#5 = 0x7FFFFFFF#32 ∧ readReg s 9#5 = 1#32 ∧ (10#5 : RegIdx) ≠ 0#5 := by
  decide

/-- Both signs: 0x7FFFFFFF + 1, and 0x80000000 + 0x80000000 (V-ADD-2). -/
theorem witness_AddTrapsOnCheckedOverflow :
    (let s := overflowing (base [])
     s.settings.overflowCheck = true ∧
      (readReg s 8#5).toInt + (readReg s 9#5).toInt ≠ (readReg s 8#5 + readReg s 9#5).toInt) ∧
    (let s := writeReg 8#5 0x80000000#32 (overflowing (base []))
     s.settings.overflowCheck = true ∧
      (readReg s 8#5).toInt + (readReg s 8#5).toInt ≠ (readReg s 8#5 + readReg s 8#5).toInt) := by decide

/-- Each case of the two clauses: adjusted, not adjusted for either reason. -/
theorem witness_ExceptionEntrySavesTheFaultingAddress :
    (boot { coreParams with epcBdAdjust := true } []).params.epcBdAdjust = true ∧
    (base []).params.epcBdAdjust = false := by decide

/-- The boundary bits of each clause about SR. -/
theorem witness_ExceptionEntryPushesTheStatusStack :
    (0 < 2 ∧ 1 < 2) ∧ (¬ 2 < 2 ∧ 2 < 6 ∧ 5 < 6) ∧ (¬ 6 < 2 ∧ ¬ 6 < 6 ∧ 31 < 32) := by decide

/-- The boundary bits that CAUSE keeps: 0, 1, 7, 27 and 30. -/
theorem witness_ExceptionEntryRecordsTheCause :
    ∀ b ∈ [0, 1, 7, 27, 30], b < 32 ∧ b ≠ 31 ∧ b ≠ 28 ∧ b ≠ 29 ∧ (b < 2 ∨ 6 < b) := by decide

/-- COP0 registers that entry does not write, at the ends and around 12 to 14. -/
theorem witness_ExceptionEntryRedirectsAndWritesNothingElse :
    ∀ n ∈ [0#5, 11#5, 15#5, 31#5], n ≠ 12#5 ∧ n ≠ 13#5 ∧ n ≠ 14#5 := by decide

theorem witness_NestedExceptionOverwritesTheFirst :
    let t := takeException .arithmeticOverflow false false (base [])
    t.cop0 = (takeException .arithmeticOverflow false false (base [])).cop0 ∧ t.params = (base []).params := ⟨rfl, rfl⟩

/-- One state and instruction for each of the five clauses about an instruction, and a word that is none. -/
theorem witness_DelaySlotControllerTransitions :
    (let s := ext []
     ∃ t, exec .nop s = .next t ∧ (!s.inDelaySlot && !branches s .nop && !traps s .nop) = true) ∧
    (let s := ext []
     ∃ t, exec (.j 4#26) s = .next t ∧ (!s.inDelaySlot && branches s (.j 4#26)) = true) ∧
    (let s := overflowing (ext [])
     ∃ t, exec (.add 10#5 8#5 9#5 0#5) s = .next t ∧ traps s (.add 10#5 8#5 9#5 0#5) = true) ∧
    (let s := { ext [] with inDelaySlot := true }
     ∃ t, exec .nop s = .next t ∧ (s.inDelaySlot && !branches s .nop && !traps s .nop) = true) ∧
    (let s := { ext [] with inDelaySlot := true }
     s.inDelaySlot = true ∧ branches s (.j 4#26) = true) ∧
    (∃ t, execUnimplemented (ext []) = .next t) :=
  ⟨exists_of_passes (f := fun _ => _) (by decide), exists_of_passes (f := fun _ => _) (by decide),
    exists_of_passes (f := fun _ => _) (by decide), exists_of_passes (f := fun _ => _) (by decide), by decide, _, rfl⟩

theorem witness_JumpArmsTheDelaySlot : (ext []).params.extJl = true ∧ (ext []).inDelaySlot = false := by decide

/-- V-J-5, step 2. -/
theorem witness_JumpInADelaySlotIsFatal :
    let s := { ext [0x08000004#32, 0x08000008#32] with pc := 4#32, inDelaySlot := true }
    s.params.extJl = true ∧ s.inDelaySlot = true ∧ iFetch s s.pc = some 0x08000008#32 ∧
    decode 0x08000008#32 = .ok (.j 8#26) := by decide

/-- P3 (a delay slot that completes) and P5 (one that traps), both steps. -/
theorem witness_JumpTakesEffectAfterTheDelaySlot :
    (let s := ext [0x08000004#32, 0x34080001#32]
     s.params.extJl = true ∧ s.inDelaySlot = false ∧ iFetch s s.pc = some 0x08000004#32 ∧
      decode 0x08000004#32 = .ok (.j 4#26) ∧
      passes (step s) (fun s₁ => iFetch s₁ s₁.pc = some 0x34080001#32 &&
        passes (step s₁) (fun s₂ => s₂.pc = 0x10#32 && readReg s₂ 8#5 = 1#32)) = true) ∧
    (let s := overflowing (ext [0x08000004#32, 0x01095020#32])
     passes (step s) (fun s₁ => iFetch s₁ s₁.pc = some 0x01095020#32 &&
        traps (afterFetch 0x01095020#32 s₁) (.add 10#5 8#5 9#5 0#5) &&
        passes (step s₁) (fun s₂ => s₂.pc = 0x80#32 && readCop0 s₂ 13#5 = 0x80000030#32)) = true) := by decide

/-- A step that traps, one in a delay slot, and one outside. -/
theorem witness_PcChangesOnlyAsListed :
    passes (step (overflowing (base [0x01095020#32]))) (fun t => t.pc = 0x80#32) = true ∧
    passes (step { ext [] with inDelaySlot := true, branchTarget := 0x10#32 }) (fun t => t.pc = 0x10#32) = true ∧
    passes (step (base [])) (fun t => t.pc = 4#32) = true := by decide

/-- An address that the host has fixed, and one that is a free draw. -/
theorem witness_LoadWordIssuesADelayedLoad :
    (ext []).params.extJl = true ∧ (8#5 : RegIdx) ≠ 0#5 ∧
    Aligned (readReg (ext []) 0#5 + (0x100#16).signExtend 32) ∧
    Aligned (readReg (ext []) 0#5 + (0xFFFC#16).signExtend 32) ∧
    (ext []).dataAnswers.lookup (readReg (ext []) 0#5 + (0xFFFC#16).signExtend 32) = none := by decide

/-- Every misaligned remainder. -/
theorem witness_MisalignedLoadWordIsFatal :
    (ext []).params.extJl = true ∧ (8#5 : RegIdx) ≠ 0#5 ∧
    (readReg (ext []) 0#5 + (0x101#16).signExtend 32 = 0x101#32 ∧ (0x101#32).toNat % 4 ≠ 0) ∧
    (readReg (ext []) 0#5 + (0x102#16).signExtend 32 = 0x102#32 ∧ (0x102#32).toNat % 4 ≠ 0) ∧
    (readReg (ext []) 0#5 + (0xFFFF#16).signExtend 32 = 0xFFFFFFFF#32 ∧ (0xFFFFFFFF#32).toNat % 4 ≠ 0) := by decide

/-- A load of register 8 is pending: it lands; an operand read cancels it; a new LW replaces it. -/
theorem witness_PendingLoadLandsUnlessCancelled :
    let s := { ext [] with ld := ⟨true, 8#5, 5#32⟩ }
    s.ld.valid = true ∧ s.ld.reg ≠ 0#5 ∧
    (cancelsLoad s .nop = false ∧ passes (exec .nop s) (fun t => readReg t 8#5 = 5#32) = true) ∧
    (cancelsLoad s (.ori 9#5 8#5 0#16) = true ∧ destination s (.ori 9#5 8#5 0#16) ≠ s.ld.reg ∧
      passes (exec (.ori 9#5 8#5 0#16) s) (fun t => readReg t 8#5 = 0#32) = true) ∧
    (let i := Instr.add 10#5 8#5 9#5 0#5
     cancelsLoad (overflowing s) i = true ∧ traps (overflowing s) i = true) ∧
    passes (exec (.lw 8#5 0#5 0x104#16) s) (fun t => t.ld = ⟨true, 8#5, 0x11111111#32⟩) = true := by decide

theorem witness_WriterWinsOverAPendingLoad :
    let s := { ext [] with ld := ⟨true, 8#5, 5#32⟩ }
    (8#5 : RegIdx) ≠ 0#5 ∧ s.ld = ⟨true, 8#5, 5#32⟩ ∧ traps s (.add 8#5 9#5 10#5 0#5) = false := by decide

/-- V-LD-2, V-LD-15, V-LD-14, V-LD-12: both values of `LOAD_READ_CANCELS`, the pending register in each operand
position, a trapping ADD, and an aligned LW through it. -/
theorem witness_ReadingAPendingRegisterDiscardsTheLoad :
    let s := { ext [] with ld := ⟨true, 8#5, 5#32⟩ }
    let s' := { boot { extParams with loadReadCancels := false } [] with ld := ⟨true, 8#5, 5#32⟩ }
    (9#5 : RegIdx) ≠ 0#5 ∧ (8#5 : RegIdx) ≠ 0#5 ∧ (9#5 : RegIdx) ≠ 8#5 ∧
    s.ld = ⟨true, 8#5, 5#32⟩ ∧ s.params.loadReadCancels = true ∧ s.params.extJl = true ∧
    Aligned (readReg s 8#5 + (0x100#16).signExtend 32) ∧
    s'.ld = ⟨true, 8#5, 5#32⟩ ∧ s'.params.loadReadCancels = false ∧
    passes (exec (.addu 9#5 8#5 0#5 0#5) s) (fun t => readReg t 8#5 = 0#32) = true ∧
    passes (exec (.addu 9#5 0#5 8#5 0#5) s') (fun t => readReg t 8#5 = 5#32 && readReg t 9#5 = 0#32) = true ∧
    traps (overflowing s) (.add 10#5 8#5 9#5 0#5) = true ∧ traps s (.add 10#5 8#5 9#5 0#5) = false := by decide

/-- P4b, its first two steps. -/
theorem witness_LoadedValueIsVisibleFromTheSecondStep :
    let s := ext [0x8C080100#32, 0x34090001#32]
    s.params.extJl = true ∧ (8#5 : RegIdx) ≠ 0#5 ∧ iFetch s s.pc = some 0x8C080100#32 ∧
    decode 0x8C080100#32 = .ok (.lw 8#5 0#5 0x100#16) ∧
    (decode 0x34090001#32 = .ok (.ori 9#5 0#5 1#16) ∧ destination s (.ori 9#5 0#5 1#16) ≠ 8#5 ∧
      8#5 ∉ sources (.ori 9#5 0#5 1#16)) ∧
    passes (step s) (fun s₁ => iFetch s₁ s₁.pc = some 0x34090001#32 &&
      passes (step s₁) (fun s₂ => readReg s₂ 8#5 = 0xDEADBEEF#32)) = true := by decide

/-- Register 0; the ends of the other registers; a pending load on the target; the stack pointer. -/
theorem witness_WriteCommitProtocol :
    (1#5 : RegIdx) ≠ 0#5 ∧ (31#5 : RegIdx) ≠ 0#5 ∧
    (let c := beginStep { ext [] with ld := ⟨true, 29#5, 5#32⟩ }
     c.old.valid = true ∧ c.old.reg = 29#5 ∧ (29#5 : RegIdx) = c.st.params.spIndex) := by decide

/-- The stack pointer's index is not 0, and an ADD to it need not trap. -/
theorem witness_StackPointerWritesAreIntercepted :
    (base []).params.spIndex ≠ 0#5 ∧ traps (base []) (.add 29#5 8#5 9#5 0#5) = false := by decide

/-- An ORI, an ADD and an ADDU that are `OK` and do not trap, with a destination that is not the stack pointer, and
with the stack pointer; and P7, step 2: a load lands on the stack pointer. -/
theorem witness_FrameOfTheRegisterInstructions :
    (∀ i ∈ [Instr.ori 8#5 9#5 1#16, .add 10#5 8#5 9#5 0#5, .addu 10#5 8#5 9#5 0#5, .ori 29#5 9#5 1#16,
        .add 29#5 8#5 9#5 0#5, .addu 29#5 8#5 9#5 0#5],
      traps (base []) i = false ∧ passes (exec i (base [])) (fun _ => true) = true) ∧
    passes (exec (.ori 8#5 0#5 1#16) { ext [] with ld := ⟨true, 29#5, 0x8000#32⟩ })
      (fun t => t.events = [.spWrite 0#32 0x8000#32] && readReg t 29#5 = 0x8000#32 && readReg t 8#5 = 1#32) = true := by
  decide

theorem witness_FrameOfJumpAndLoadWord :
    (ext []).params.extJl = true ∧
    ∀ i ∈ [Instr.j 4#26, .lw 8#5 0#5 0x100#16], passes (exec i (ext [])) (fun _ => true) = true := by decide

/-- The launch state of the vectors meets the invariants, and its step is `OK`. -/
theorem witness_Invariants :
    Inv (base []) ∧ StorageInv (base []) ∧ CoreOnlyInv (base []) ∧ passes (step (base [])) (fun _ => true) = true :=
  ⟨⟨by decide, by decide, by decide, by decide, by decide, by decide, by decide⟩,
    ⟨rfl, rfl, by decide, by decide, rfl, .inl rfl⟩, ⟨rfl, rfl, rfl⟩, by decide⟩

/-- The host can write the first and the last byte of the store. -/
theorem witness_HostOperationsKeepTheInvariant :
    (writeICache 0 0xAB#8 (base [])).isSome ∧ (writeICache 255 0xAB#8 (base [])).isSome := by decide

theorem witness_ResetMeetsTheInvariants : coreParams.wf ∧ extParams.wf := by decide

theorem witness_ResetIsTheStatePowerOnLeaves :
    State.reset.params = Config.params ∧ State.reset.dataAnswers = [] ∧ State.reset.dataReads = 0 := ⟨rfl, rfl, rfl⟩

/-- Just outside the store and just inside it; the last byte of the last word. -/
theorem witness_HostWriteIsSeenByTheNextFetch :
    (base []).icache.wf ∧ (base []).params.icacheBytes ≤ 256 ∧ 255 < (base []).params.icacheBytes ∧
    (3 < 4 ∧ (0xFC#32).toNat + 3 = 255 ∧ Aligned 0xFC#32 ∧ (0xFC#32).toNat + 4 ≤ (base []).params.icacheBytes ∧
      0 < 4 ∧ 0 ≠ 3) := by decide

/-- A store in canonical form that is not empty. -/
theorem witness_InstructionStoreIsCanonical :
    (base [0x34080022#32]).icache.wf ∧ (base [0x34080022#32]).icache = [(0, 0x22#8), (2, 0x08#8), (3, 0x34#8)] := by
  decide

theorem witness_PlacedWordIsTheNextInstruction :
    (base []).icache.wf ∧ Aligned (base []).pc ∧ (base []).pc.toNat + 4 ≤ (base []).params.icacheBytes := by decide

/-- A run of one step and the step after it. -/
theorem witness_ObservedRunIsTheRunWithItsEvents :
    (match observeRun 1 (base []) with
     | .next p => p.2 = [.logUnknownInstruction 0#32 0#6 0#6] && passes (step p.1) (fun t => t.pc = 8#32)
     | .fault _ => false
     | .refused _ => false) = true := by decide

end Sys2Proof.Tests
end

section
/-! Register 0: both write operations return their argument at index 0, so no state a step reaches shows a write
to it (10_state.md R22; 40_step_fetch_dispatch.md R114). -/

namespace Sys2Proof.Machine

@[simp] theorem writeReg_zero (v : Word) (s : State) : writeReg 0#5 v s = s := if_pos rfl

/-- Neither the register file, nor the interceptor's events, nor the pending load. -/
@[simp] theorem writeGPR_zero (v : Word) (c : StepCtx) : writeGPR 0#5 v c = c := if_pos rfl

/-- Settles O36: the reads are `readReg_zero`, of the state after a step too, since the 0 is in the read itself;
the two writes discard by their own guard. -/
theorem registerZeroIsHardwired : Obligations.RegisterZeroIsHardwired := by
  unfold Obligations.RegisterZeroIsHardwired
  refine ⟨?reads, ?rawWrite, ?committedWrite, ?afterStep⟩
  case reads => exact readReg_zero
  case rawWrite => exact fun s v => writeReg_zero v s
  case committedWrite => exact fun c v => writeGPR_zero v c
  case afterStep => exact fun _ t _ => readReg_zero t

end Sys2Proof.Machine
end

section
/-! The fields of a word as naturals (30_encoding.md R73): a slice is a quotient and a remainder by powers of two, and
each field of `decodeFields` is a slice. -/

namespace Sys2Proof.Machine

theorem toNat_slice (w : Word) (lo n : Nat) : (w.extractLsb' lo n).toNat = w.toNat / 2 ^ lo % 2 ^ n := by
  rw [BitVec.extractLsb'_toNat, Nat.shiftRight_eq_div_pow]

theorem toNat_lowSlice (w : Word) (n : Nat) : (w.extractLsb' 0 n).toNat = w.toNat % 2 ^ n := by
  rw [toNat_slice, Nat.pow_zero, Nat.div_one]

/-- A slice that reaches bit 31 needs no remainder: nothing of the word stands above it. -/
theorem toNat_highSlice (w : Word) {lo n : Nat} (h : lo + n = 32) : (w.extractLsb' lo n).toNat = w.toNat / 2 ^ lo := by
  have hw : w.toNat < 2 ^ lo * 2 ^ n := by
    rw [← Nat.pow_add, h]
    exact w.isLt
  rw [toNat_slice, Nat.mod_eq_of_lt (Nat.div_lt_of_lt_mul hw)]

/-- Settles O4: `op` is the slice that reaches bit 31, `funct`, `imm` and `target` are slices from bit 0. -/
theorem decodeExtractsEveryField : Obligations.DecodeExtractsEveryField := by
  unfold Obligations.DecodeExtractsEveryField
  intro w
  refine ⟨?op, ?rs, ?rt, ?rd, ?shamt, ?funct, ?imm, ?target⟩
  case op => exact toNat_highSlice w rfl
  case rs => exact toNat_slice w 21 5
  case rt => exact toNat_slice w 16 5
  case rd => exact toNat_slice w 11 5
  case shamt => exact toNat_slice w 6 5
  case funct => exact toNat_lowSlice w 6
  case imm => exact toNat_lowSlice w 16
  case target => exact toNat_lowSlice w 26

end Sys2Proof.Machine
end

section
/-! The write-commit protocol of a register other than 0 (40_step_fetch_dispatch.md R114, R115): what it does to the
state is `commitReg`, the interceptor before the commit. -/

namespace Sys2Proof.Machine

theorem writeGPR_st_of_ne_zero {r : RegIdx} (hr : r ≠ 0#5) (v : Word) (c : StepCtx) :
    (writeGPR r v c).st = commitReg r v c.st := by
  rw [writeGPR_st, if_neg hr]

theorem writeGPR_old_of_ne_zero {r : RegIdx} (hr : r ≠ 0#5) (v : Word) (c : StepCtx) :
    (writeGPR r v c).old = c.old.cancel r := by
  rw [writeGPR_old, if_neg hr]

theorem readReg_commitReg_same {r : RegIdx} (hr : r ≠ 0#5) (v : Word) (s : State) :
    readReg (commitReg r v s) r = v := by
  rw [readReg_commitReg, if_pos ⟨rfl, hr⟩]

theorem readReg_commitReg_of_ne {r j : RegIdx} (hj : j ≠ r) (v : Word) (s : State) :
    readReg (commitReg r v s) j = readReg s j := by
  rw [readReg_commitReg, if_neg fun h => hj h.1.symm]

/-- The frame of interceptor and commit: the register file and the events are all they write. -/
theorem commitReg_frame (r : RegIdx) (v : Word) (s : State) :
    { commitReg r v s with gpr := s.gpr, events := s.events } = s := by simp

/-- Settles O37: (a) is the guard of `writeGPR`, (b) is `LoadSlot.cancel`; (c) and (d) are `commitReg`, whose event
reads the register in the state before the commit. -/
theorem writeCommitProtocol : Obligations.WriteCommitProtocol := by
  unfold Obligations.WriteCommitProtocol
  intro c r v
  refine ⟨?zero, fun hr => ?nonzero⟩
  case zero =>
    rintro rfl
    exact writeGPR_zero v c
  case nonzero =>
    rw [writeGPR_st_of_ne_zero hr, writeGPR_old_of_ne_zero hr]
    refine ⟨?cancel, ?intercept, ?commit, ?otherRegisters, ?frame, ?context⟩
    case cancel => rfl
    case intercept => exact commitReg_events c.st r v
    case commit => exact readReg_commitReg_same hr v c.st
    case otherRegisters => exact fun _ hne => readReg_commitReg_of_ne hne v c.st
    case frame => exact commitReg_frame r v c.st
    case context =>
      exact ⟨writeGPR_new r v c, writeGPR_ds r v c, writeGPR_exc r v c, writeGPR_arm r v c⟩

end Sys2Proof.Machine
end

section
/-! The register that an instruction writes, after its step: phase 6 runs after the write, but a pending load of that
register no longer lands (40_step_fetch_dispatch.md R114 (b); 44_loads.md R204), so the register holds the result. -/

namespace Sys2Proof.Machine

/-- The register written is the destination, and the instruction does not trap. -/
theorem destination_of_writes {s : State} {i : Instr} (hw : writes s i ≠ 0#5) :
    destination s i = writes s i ∧ traps s i = false := by
  cases i with
  | ori rt rs imm => exact ⟨rfl, rfl⟩
  | add rd rs rt sh =>
    have ht : traps s (.add rd rs rt sh) = false := by
      by_contra ht
      exact hw (if_pos (Bool.eq_true_of_not_eq_false ht))
    have hrd : writes s (.add rd rs rt sh) = rd := if_neg (Bool.eq_false_iff.1 ht)
    exact ⟨hrd.symm, ht⟩
  | addu rd rs rt sh => exact ⟨rfl, rfl⟩
  | j target => exact absurd rfl hw
  | lw rt rs imm => exact absurd rfl hw

/-- A write cancels a pending load of the register written. -/
theorem loadLands_of_writes {s : State} {i : Instr} (hw : writes s i ≠ 0#5) (hr : s.ld.reg = writes s i) :
    loadLands s i = false := by
  obtain ⟨hd, ht⟩ := destination_of_writes hw
  simp [loadLands, cancelsLoad, hd, ht, hr, hw]

/-- After the step, the register written holds the result, with a pending load or without. -/
theorem readReg_exec_writes {s t : State} {i : Instr} (h : exec i s = .next t) (hw : writes s i ≠ 0#5) :
    readReg t (writes s i) = result s i := by
  obtain ⟨c, rfl, he⟩ := exec_effect h
  have hstale : ¬ (c.old.valid = true ∧ c.old.reg = writes s i ∧ writes s i ≠ 0#5) := by
    rintro ⟨hv, hr, -⟩
    rw [he.oldValid, loadLands_of_writes hw (he.oldReg.symm.trans hr)] at hv
    cases hv
  rw [readReg_endStep, if_neg hstale, he.reg, if_pos ⟨hw, rfl⟩]

end Sys2Proof.Machine
end

section
/-! ORI (41_or_immediate.md R142): it completes in every state, and its target holds the OR. -/

namespace Sys2Proof.Machine

theorem exec_ori_completes (s : State) (rt rs : RegIdx) (imm : BitVec 16) :
    ∃ t, exec (.ori rt rs imm) s = .next t := by
  rcases exec_outcome (.ori rt rs imm) s with h | ⟨_, hj, _⟩ | ⟨_, _, _, hlw, _⟩
  · exact h
  · cases hj
  · cases hlw

theorem readReg_exec_ori {s t : State} {rt rs : RegIdx} {imm : BitVec 16}
    (h : exec (.ori rt rs imm) s = .next t) (hrt : rt ≠ 0#5) :
    readReg t rt = readReg s rs ||| zextImm imm :=
  readReg_exec_writes h hrt

theorem toNat_zextImm (imm : BitVec 16) : (zextImm imm).toNat = imm.toNat :=
  BitVec.toNat_setWidth_of_le (by decide)

/-- The OR with a zero-extended immediate keeps the upper half. -/
theorem upperHalf_or_zextImm (a : Word) (imm : BitVec 16) :
    (a ||| zextImm imm).extractLsb' 16 16 = a.extractLsb' 16 16 := by
  have hupper : (zextImm imm).extractLsb' 16 16 = 0#16 := by
    apply BitVec.eq_of_toNat_eq
    rw [toNat_highSlice _ rfl, toNat_zextImm]
    exact Nat.div_eq_of_lt imm.isLt
  rw [BitVec.extractLsb'_or, hupper, BitVec.or_zero]

/-- Its lower half is the OR with the immediate itself. -/
theorem lowerHalf_or_zextImm (a : Word) (imm : BitVec 16) :
    (a ||| zextImm imm).extractLsb' 0 16 = a.extractLsb' 0 16 ||| imm := by
  have hlower : (zextImm imm).extractLsb' 0 16 = imm := by
    apply BitVec.eq_of_toNat_eq
    rw [toNat_lowSlice, toNat_zextImm]
    exact Nat.mod_eq_of_lt imm.isLt
  rw [BitVec.extractLsb'_or, hlower]

/-- Settles O12: the target holds the OR because phase 6 never overwrites what the step wrote; the two halves are
those of an OR with a zero-extended immediate. -/
theorem oriWritesTheOrOfTheZeroExtendedImmediate : Obligations.OriWritesTheOrOfTheZeroExtendedImmediate := by
  unfold Obligations.OriWritesTheOrOfTheZeroExtendedImmediate
  intro s rt rs imm
  obtain ⟨t, ht⟩ := exec_ori_completes s rt rs imm
  refine ⟨t, ht, fun hrt => ?_⟩
  rw [readReg_exec_ori ht hrt]
  exact ⟨rfl, upperHalf_or_zextImm .., lowerHalf_or_zextImm ..⟩

end Sys2Proof.Machine
end

section
/-! The step of an instruction that is present and does not trap: COP0 stays, the `pc` is sequenced as without an
exception, and every event it adds is the interceptor's (42_add.md R160, R161; 43_control_transfer.md R171). -/

namespace Sys2Proof.Machine

/-- An event of the stack-pointer interceptor (40_step_fetch_dispatch.md R117), and so no log event. -/
def IsSpWrite (e : Event) : Prop := ∃ old new, e = .spWrite old new

theorem isSpWrite_of_mem_ite {p : Prop} [Decidable p] {old new : Word} {e : Event}
    (he : e ∈ if p then [.spWrite old new] else []) : IsSpWrite e := by
  split at he
  · exact ⟨old, new, List.mem_singleton.1 he⟩
  · cases he

theorem isSpWrite_of_mem_actionEvents {s : State} {i : Instr} (hp : i.present s.params = true)
    (ht : traps s i = false) {e : Event} (he : e ∈ actionEvents s i) : IsSpWrite e := by
  rw [actionEvents, if_neg (by simp [hp]), if_neg (by simp [ht])] at he
  exact isSpWrite_of_mem_ite he

theorem exec_cop0_of_not_traps {s t : State} {i : Instr} (h : exec i s = .next t) (ht : traps s i = false) :
    t.cop0 = s.cop0 := by
  obtain ⟨c, rfl, he⟩ := exec_effect h
  rw [endStep_cop0, he.cop0, cop0After, if_neg (by simp [ht])]

theorem exec_pc_of_not_traps {s t : State} {i : Instr} (h : exec i s = .next t) (ht : traps s i = false) :
    t.pc = if s.inDelaySlot then s.branchTarget else s.pc := by
  obtain ⟨c, rfl, he⟩ := exec_effect h
  simp [he.exc, he.ds, he.pc, he.branchTarget, ht]

/-- The events added are those of the action, then that of a pending load that lands on the stack pointer. -/
theorem exec_events_of_not_traps {s t : State} {i : Instr} (h : exec i s = .next t)
    (hp : i.present s.params = true) (ht : traps s i = false) :
    ∃ es, t.events = s.events ++ es ∧ ∀ e ∈ es, IsSpWrite e := by
  obtain ⟨c, rfl, he⟩ := exec_effect h
  refine ⟨actionEvents s i ++ _, by rw [endStep_events, he.events, List.append_assoc], fun e hmem => ?_⟩
  rcases List.mem_append.1 hmem with haction | hlanding
  · exact isSpWrite_of_mem_actionEvents hp ht haction
  · exact isSpWrite_of_mem_ite hlanding

end Sys2Proof.Machine
end

section
/-! ADDU (42_add.md R160, R161): it completes in every state with the sum modulo 2^32. -/

namespace Sys2Proof.Machine

theorem exec_addu_completes (s : State) (rd rs rt : RegIdx) (sh : BitVec 5) :
    ∃ t, exec (.addu rd rs rt sh) s = .next t :=
  ⟨_, runAction_eq_next.2 ⟨_, adduAction_eq .., rfl⟩⟩

theorem readReg_exec_addu {s t : State} {rd rs rt : RegIdx} {sh : BitVec 5}
    (h : exec (.addu rd rs rt sh) s = .next t) (hrd : rd ≠ 0#5) :
    readReg t rd = readReg s rs + readReg s rt :=
  readReg_exec_writes h hrd

/-- Settles O17: ADDU is present in every profile and `traps` is false of it by definition, so its step is that of a
non-trapping instruction; the word sum read on naturals is the sum modulo 2^32. -/
theorem adduWrapsWithoutException : Obligations.AdduWrapsWithoutException := by
  unfold Obligations.AdduWrapsWithoutException
  intro s rd rs rt sh
  obtain ⟨t, ht⟩ := exec_addu_completes s rd rs rt sh
  refine ⟨t, ht, ?wraps, ?cop0, ?pc, ?events⟩
  case wraps =>
    intro hrd
    rw [readReg_exec_addu ht hrd, BitVec.toNat_add]
  case cop0 => exact exec_cop0_of_not_traps ht rfl
  case pc => exact exec_pc_of_not_traps ht rfl
  case events => exact exec_events_of_not_traps ht rfl rfl

end Sys2Proof.Machine
end

section
/-! ADD with overflow checking off (42_add.md R153): its action is ADDU's. With `rd` = 0, where ADD reads its
operands and ADDU does not, neither a read nor a write has an effect. -/

namespace Sys2Proof.Machine

/-- A read by an instruction whose destination is register 0 cancels no load (44_loads.md R205). -/
theorem cancelByRead_zero (i : RegIdx) (c : StepCtx) : cancelByRead i 0#5 c = c :=
  if_neg fun h => h.2 rfl

theorem addAction_eq_adduAction {c : StepCtx} (hoff : c.st.settings.overflowCheck = false) (rd rs rt : RegIdx) :
    addAction rd rs rt c = adduAction rd rs rt c := by
  rw [addAction_eq, adduAction_eq, if_neg (by simp [hoff])]
  by_cases hrd : rd = 0#5
  · subst hrd
    rw [if_pos rfl, writeGPR_zero, cancelByRead_zero, cancelByRead_zero]
  · rw [if_neg hrd]

theorem exec_add_eq_exec_addu {s : State} (hoff : s.settings.overflowCheck = false) (rd rs rt : RegIdx)
    (sh : BitVec 5) : exec (.add rd rs rt sh) s = exec (.addu rd rs rt sh) s := by
  simp only [exec, execAdd, execAddu, runAction, addAction_eq_adduAction (c := beginStep s) hoff]

/-- Settles O16: the two instructions have one outcome, so the rest is said of ADDU. -/
theorem addWithCheckingOffIsTheNonTrappingAdd : Obligations.AddWithCheckingOffIsTheNonTrappingAdd := by
  unfold Obligations.AddWithCheckingOffIsTheNonTrappingAdd
  intro s rd rs rt sh hoff
  obtain ⟨t, ht⟩ := exec_addu_completes s rd rs rt sh
  rw [exec_add_eq_exec_addu hoff]
  refine ⟨rfl, t, ht, fun hrd => ⟨?sum, ?atBoundary⟩, ?events⟩
  case sum => exact readReg_exec_addu ht hrd
  case atBoundary =>
    intro ha hb
    rw [readReg_exec_addu ht hrd, ha, hb]
    decide
  case events => exact exec_events_of_not_traps ht rfl rfl

end Sys2Proof.Machine
end

section
/-! The branch delay-slot controller after an instruction that is `OK` (43_control_transfer.md R171, R173): an exception
returns it to NORMAL and discards the branch, a taken branch in NORMAL arms it, and any other instruction is sequenced
on. -/

namespace Sys2Proof.Machine

/-- Every taken branch is a J, and it arms its target. -/
theorem armed_of_branches {s : State} {i : Instr} (hb : branches s i = true) :
    ∃ tgt, i = .j tgt ∧ armed s i = some (jumpTarget s.pc tgt) := by
  cases i with
  | j tgt => exact ⟨tgt, rfl, if_pos hb⟩
  | ori _ _ _ => cases hb
  | add _ _ _ _ => cases hb
  | addu _ _ _ _ => cases hb
  | lw _ _ _ => cases hb

theorem armed_of_not_branches {s : State} {i : Instr} (hb : branches s i = false) : armed s i = none := by
  cases i with
  | j tgt => exact if_neg (Bool.eq_false_iff.1 hb)
  | ori _ _ _ => rfl
  | add _ _ _ _ => rfl
  | addu _ _ _ _ => rfl
  | lw _ _ _ => rfl

theorem not_traps_of_branches {s : State} {i : Instr} (hb : branches s i = true) : traps s i = false := by
  obtain ⟨tgt, rfl, -⟩ := armed_of_branches hb
  rfl

/-- An exception and the end of a delay slot both return the controller to NORMAL; else it is the armed branch that
counts. -/
theorem exec_inDelaySlot {s t : State} {i : Instr} (h : exec i s = .next t) :
    t.inDelaySlot = if traps s i = true ∨ s.inDelaySlot = true then false else (armed s i).isSome := by
  obtain ⟨c, rfl, he⟩ := exec_effect h
  rw [endStep_inDelaySlot, he.exc, he.ds, he.arm, he.inDelaySlot]
  by_cases hret : traps s i = true ∨ s.inDelaySlot = true
  · rw [if_pos hret, if_pos hret]
  · rw [if_neg hret, if_neg hret, Bool.eq_false_of_not_eq_true (not_or.1 hret).2, Bool.or_false]

theorem exec_branchTarget {s t : State} {i : Instr} (h : exec i s = .next t) :
    t.branchTarget =
      if traps s i = true ∨ s.inDelaySlot = true then s.branchTarget else (armed s i).getD s.branchTarget := by
  obtain ⟨c, rfl, he⟩ := exec_effect h
  rw [endStep_branchTarget, he.exc, he.ds, he.arm, he.branchTarget]

theorem exec_pc_of_traps {s t : State} {i : Instr} (h : exec i s = .next t) (ht : traps s i = true) :
    t.pc = s.params.excVector := by
  obtain ⟨c, rfl, he⟩ := exec_effect h
  rw [endStep_pc, if_neg (by simp [he.exc, ht]), he.pc, if_pos ht]

/-- Rows 1 and 4: neither a branch nor an exception. -/
theorem exec_sequencedOn {s t : State} {i : Instr} (h : exec i s = .next t) (hb : branches s i = false)
    (ht : traps s i = false) : SequencedOn s t where
  pc := exec_pc_of_not_traps h ht
  normal := by rw [exec_inDelaySlot h, armed_of_not_branches hb, Option.isSome_none, ite_self]
  target := by rw [exec_branchTarget h, armed_of_not_branches hb, Option.getD_none, ite_self]

/-- Row 2: a taken branch in NORMAL. -/
theorem exec_arms_of_branches {s t : State} {i : Instr} (h : exec i s = .next t) (hds : s.inDelaySlot = false)
    (hb : branches s i = true) :
    t.inDelaySlot = true ∧ t.pc = s.pc ∧ ∃ tgt, i = .j tgt ∧ t.branchTarget = jumpTarget s.pc tgt := by
  have ht := not_traps_of_branches hb
  obtain ⟨tgt, hj, ha⟩ := armed_of_branches hb
  have hnormal : ¬ (traps s i = true ∨ s.inDelaySlot = true) := by simp [ht, hds]
  refine ⟨?_, ?_, tgt, hj, ?_⟩
  · rw [exec_inDelaySlot h, if_neg hnormal, ha, Option.isSome_some]
  · rw [exec_pc_of_not_traps h ht, hds, if_neg Bool.false_ne_true]
  · rw [exec_branchTarget h, if_neg hnormal, ha, Option.getD_some]

/-- Rows 3 and 5: an exception, in a delay slot or not. -/
theorem exec_redirects_of_traps {s t : State} {i : Instr} (h : exec i s = .next t) (ht : traps s i = true) :
    t.inDelaySlot = false ∧ t.pc = s.params.excVector ∧ t.branchTarget = s.branchTarget := by
  refine ⟨?_, exec_pc_of_traps h ht, ?_⟩
  · rw [exec_inDelaySlot h, if_pos (.inl ht)]
  · rw [exec_branchTarget h, if_pos (.inl ht)]

/-- Row 6: a taken branch in a delay slot. -/
theorem exec_eq_fault_of_branches {s : State} {i : Instr} (hds : s.inDelaySlot = true) (hb : branches s i = true) :
    exec i s = .fault (.branchInDelaySlot (s.pc - 4#32)) := by
  obtain ⟨tgt, rfl, -⟩ := armed_of_branches hb
  exact exec_j_eq_fault hb hds

/-- The logged no-op is sequenced on as well. -/
theorem execUnimplemented_sequencedOn {s t : State} (h : execUnimplemented s = .next t) : SequencedOn s t := by
  rw [execUnimplemented_eq] at h
  cases h
  exact ⟨by simp, by simp, by simp⟩

/-- Settles O25: rows 1 and 4 and the unimplemented word are the two readings of `SequencedOn`; each other row is its
own lemma, since a taken branch is a J and only a trap takes an exception. -/
theorem delaySlotControllerTransitions : Obligations.DelaySlotControllerTransitions := by
  unfold Obligations.DelaySlotControllerTransitions
  intro s i
  refine ⟨?sequenced, ?armed, ?exception, ?delaySlot, ?branchInDelaySlot, ?unimplemented⟩
  case sequenced =>
    intro t h hds hb ht
    obtain ⟨hpc, hnormal, htarget⟩ := exec_sequencedOn h hb ht
    exact ⟨hnormal, hpc.trans (if_neg (Bool.eq_false_iff.1 hds)), htarget⟩
  case armed => exact fun _ => exec_arms_of_branches
  case exception => exact fun _ => exec_redirects_of_traps
  case delaySlot =>
    intro t h hds hb ht
    obtain ⟨hpc, hnormal, htarget⟩ := exec_sequencedOn h hb ht
    exact ⟨hnormal, hpc.trans (if_pos hds), htarget⟩
  case branchInDelaySlot => exact exec_eq_fault_of_branches
  case unimplemented =>
    intro t h
    obtain ⟨hpc, hnormal, htarget⟩ := execUnimplemented_sequencedOn h
    exact ⟨hnormal, hpc, htarget⟩

end Sys2Proof.Machine
end

section
/-! An instruction that writes the register of a pending load (44_loads.md R204). Its write cancels the load, which is
`loadLands_of_writes`, and it issues none of its own, so that nothing is pending after it. -/

namespace Sys2Proof.Machine

/-- After a step only the load that its own instruction issued is pending. -/
theorem exec_ld {s t : State} {i : Instr} (h : exec i s = .next t) : t.ld = issues s i := by
  obtain ⟨c, rfl, he⟩ := exec_effect h
  rw [endStep_ld, he.new]

/-- An instruction that writes a register within its own step issues no load: the one that issues, LW, writes none. -/
theorem issues_of_writes {s : State} {i : Instr} (hw : writes s i ≠ 0#5) : issues s i = LoadSlot.empty := by
  cases i with
  | lw rt rs imm => exact absurd rfl hw
  | ori _ _ _ => rfl
  | add _ _ _ _ => rfl
  | addu _ _ _ _ => rfl
  | j _ => rfl

theorem exec_ld_invalid_of_writes {s t : State} {i : Instr} (h : exec i s = .next t) (hw : writes s i ≠ 0#5) :
    t.ld.valid = false := by
  rw [exec_ld h, issues_of_writes hw]
  rfl

theorem exec_add_completes (s : State) (rd rs rt : RegIdx) (sh : BitVec 5) :
    ∃ t, exec (.add rd rs rt sh) s = .next t :=
  ⟨_, runAction_eq_next.2 ⟨_, addAction_eq .., rfl⟩⟩

theorem writes_add_of_not_traps {s : State} {rd rs rt : RegIdx} {sh : BitVec 5}
    (ht : traps s (.add rd rs rt sh) = false) : writes s (.add rd rs rt sh) = rd :=
  if_neg (Bool.eq_false_iff.1 ht)

theorem readReg_exec_add {s t : State} {rd rs rt : RegIdx} {sh : BitVec 5}
    (h : exec (.add rd rs rt sh) s = .next t) (ht : traps s (.add rd rs rt sh) = false) (hrd : rd ≠ 0#5) :
    readReg t rd = readReg s rs + readReg s rt := by
  have hw := writes_add_of_not_traps ht
  have hread := readReg_exec_writes h (by rwa [hw])
  rwa [hw] at hread

/-- Settles O33: each of the three instructions writes `r`, so the lemmas about a written register give its value and
the empty slot. They hold whatever is pending: that the load on `r` does not land is within `readReg_exec_writes`. -/
theorem writerWinsOverAPendingLoad : Obligations.WriterWinsOverAPendingLoad := by
  unfold Obligations.WriterWinsOverAPendingLoad
  intro s r rs rt imm sh _ hr _
  refine ⟨?ori, ?addu, fun htraps => ?add⟩
  case ori =>
    obtain ⟨t, ht⟩ := exec_ori_completes s r rs imm
    exact ⟨t, ht, readReg_exec_ori ht hr, exec_ld_invalid_of_writes ht hr⟩
  case addu =>
    obtain ⟨t, ht⟩ := exec_addu_completes s r rs rt sh
    exact ⟨t, ht, readReg_exec_addu ht hr, exec_ld_invalid_of_writes ht hr⟩
  case add =>
    obtain ⟨t, ht⟩ := exec_add_completes s r rs rt sh
    have hw : writes s (.add r rs rt sh) ≠ 0#5 := by rwa [writes_add_of_not_traps htraps]
    exact ⟨t, ht, readReg_exec_add ht htraps hr, exec_ld_invalid_of_writes ht hw⟩

end Sys2Proof.Machine
end

section
/-! Decoding and encoding are inverse to each other (30_encoding.md R70 to R78): the decoder dispatches on slices, the
encoder puts slices together, and the words that decode are those of the five rows. -/

namespace Sys2Proof

theorem decode_encode (i : Instr) : decode (encode i) = .ok i := by
  cases i with
  | ori rt rs imm =>
    obtain ⟨hop, hrs, hrt, himm⟩ := encodeI_slices 0x0D#6 rs rt imm
    simp [decode, decodeFields, encode, hop, hrs, hrt, himm]
  | add rd rs rt sh =>
    obtain ⟨hop, hrs, hrt, hrd, hsh, hfunct⟩ := encodeR_slices rs rt rd sh 0x20#6
    simp [decode, decodeSpecial, decodeFields, encode, hop, hrs, hrt, hrd, hsh, hfunct]
  | addu rd rs rt sh =>
    obtain ⟨hop, hrs, hrt, hrd, hsh, hfunct⟩ := encodeR_slices rs rt rd sh 0x21#6
    simp [decode, decodeSpecial, decodeFields, encode, hop, hrs, hrt, hrd, hsh, hfunct]
  | j target =>
    obtain ⟨hop, htarget⟩ := encodeJ_slices 0x02#6 target
    simp [decode, decodeFields, encode, hop, htarget]
  | lw rt rs imm =>
    obtain ⟨hop, hrs, hrt, himm⟩ := encodeI_slices 0x23#6 rs rt imm
    simp [decode, decodeFields, encode, hop, hrs, hrt, himm]

theorem decodeBytes_encodeBytes (i : Instr) : decodeBytes (encodeBytes i) = decode (encode i) :=
  congrArg decode (Machine.wordOfBytes_byteOfWord (encode i))

/-! A word whose `op`, and for `op` 0x00 whose `funct`, is an instruction's is the word of that instruction with the
other slices as operands. -/

theorem encode_ori_of_slices {w : Word} (hop : w.extractLsb' 26 6 = 0x0D#6) :
    encode (.ori (w.extractLsb' 16 5) (w.extractLsb' 21 5) (w.extractLsb' 0 16)) = w := by
  have h := encodeI_of_slices w
  rw [hop] at h
  exact h

theorem encode_add_of_slices {w : Word} (hop : w.extractLsb' 26 6 = 0x00#6) (hfunct : w.extractLsb' 0 6 = 0x20#6) :
    encode (.add (w.extractLsb' 11 5) (w.extractLsb' 21 5) (w.extractLsb' 16 5) (w.extractLsb' 6 5)) = w := by
  have h := encodeR_of_slices w hop
  rw [hfunct] at h
  exact h

theorem encode_addu_of_slices {w : Word} (hop : w.extractLsb' 26 6 = 0x00#6) (hfunct : w.extractLsb' 0 6 = 0x21#6) :
    encode (.addu (w.extractLsb' 11 5) (w.extractLsb' 21 5) (w.extractLsb' 16 5) (w.extractLsb' 6 5)) = w := by
  have h := encodeR_of_slices w hop
  rw [hfunct] at h
  exact h

theorem encode_j_of_slices {w : Word} (hop : w.extractLsb' 26 6 = 0x02#6) : encode (.j (w.extractLsb' 0 26)) = w := by
  have h := encodeJ_of_slices w
  rw [hop] at h
  exact h

theorem encode_lw_of_slices {w : Word} (hop : w.extractLsb' 26 6 = 0x23#6) :
    encode (.lw (w.extractLsb' 16 5) (w.extractLsb' 21 5) (w.extractLsb' 0 16)) = w := by
  have h := encodeI_of_slices w
  rw [hop] at h
  exact h

theorem encode_of_decodeSpecial {w : Word} {i : Instr} (hop : w.extractLsb' 26 6 = 0x00#6)
    (h : decodeSpecial (decodeFields w) = .ok i) : encode i = w := by
  unfold decodeSpecial at h
  split at h
  next hfunct => cases h; exact encode_add_of_slices hop hfunct
  next =>
    split at h
    next hfunct => cases h; exact encode_addu_of_slices hop hfunct
    next => cases h

theorem encode_of_decode {w : Word} {i : Instr} (h : decode w = .ok i) : encode i = w := by
  simp only [decode] at h
  split at h
  next hop => exact encode_of_decodeSpecial hop h
  next =>
    split at h
    next hop => cases h; exact encode_ori_of_slices hop
    next =>
      split at h
      next hop => cases h; exact encode_j_of_slices hop
      next =>
        split at h
        next hop => cases h; exact encode_lw_of_slices hop
        next => cases h

theorem decode_eq_ok_iff {w : Word} {i : Instr} : decode w = .ok i ↔ encode i = w :=
  ⟨encode_of_decode, by rintro rfl; exact decode_encode i⟩

/-- Settles O1: the four bytes in the store's order make the word again, and the word's slices are the fields. -/
theorem decodeOfEncodeGivesTheInstructionBack : Obligations.DecodeOfEncodeGivesTheInstructionBack := by
  unfold Obligations.DecodeOfEncodeGivesTheInstructionBack
  exact fun i => ⟨decode_encode i, (decodeBytes_encodeBytes i).trans (decode_encode i)⟩

/-- Settles O2: each branch of the decoder that answers an instruction has tested the slices that are not operands. -/
theorem encodeOfDecodeGivesTheWordBack : Obligations.EncodeOfDecodeGivesTheWordBack := by
  unfold Obligations.EncodeOfDecodeGivesTheWordBack
  exact fun _ _ => encode_of_decode

/-- Settles O5: nine fixed words, each run through the decoder. -/
theorem wordsOfTheSpecDecode : Obligations.WordsOfTheSpecDecode := by
  unfold Obligations.WordsOfTheSpecDecode
  decide

/-- Settles O6: `encodeR` is the word of ADD and ADDU with the field in it, and both arms of `exec` drop the field. -/
theorem shiftAmountHasNoEffect : Obligations.ShiftAmountHasNoEffect := by
  unfold Obligations.ShiftAmountHasNoEffect
  exact fun rd rs rt sh _ _ => ⟨decode_encode (.add rd rs rt sh), decode_encode (.addu rd rs rt sh), rfl, rfl⟩

end Sys2Proof
end

section
/-! The opcode table (30_encoding.md R78): a row's mask and match, read as the row of an instruction. -/

namespace Sys2Proof

/-- `(w & mask) == match`. -/
def OpcodeRow.Matches (r : OpcodeRow) (w : Word) : Prop := w &&& r.mask = r.pattern

theorem encode_matches_row (i : Instr) : i.row.Matches (encode i) := by
  cases i with
  | ori rt rs imm => exact Laws.TableRow.ori rt rs imm
  | add rd rs rt sh => exact Laws.TableRow.add rd rs rt sh
  | addu rd rs rt sh => exact Laws.TableRow.addu rd rs rt sh
  | j target => exact Laws.TableRow.j target
  | lw rt rs imm => exact Laws.TableRow.lw rt rs imm

theorem row_mem_opcodeTable (i : Instr) : i.row ∈ opcodeTable := by
  cases i <;> simp [Instr.row, opcodeTable]

/-- Where the words of a row are encodings of `i`, the row's test is the test that the decoder answers `i`. -/
theorem row_matches_iff_decode {i : Instr} {w : Word} (h : i.row.Matches w → encode i = w) :
    i.row.Matches w ↔ decode w = .ok i := by
  rw [decode_eq_ok_iff]
  exact ⟨h, by rintro rfl; exact encode_matches_row i⟩

theorem oriRow_matches_iff (w : Word) :
    oriRow.Matches w ↔ decode w = .ok (.ori (w.extractLsb' 16 5) (w.extractLsb' 21 5) (w.extractLsb' 0 16)) :=
  row_matches_iff_decode fun h => encode_ori_of_slices ((opMask_iff w 0x0D#6).1 h)

theorem addRow_matches_iff (w : Word) :
    addRow.Matches w ↔
      decode w = .ok (.add (w.extractLsb' 11 5) (w.extractLsb' 21 5) (w.extractLsb' 16 5) (w.extractLsb' 6 5)) :=
  row_matches_iff_decode (i := .add ..) fun h =>
    have ⟨hop, hfunct⟩ := (functMask_iff w 0x20#6).1 h
    encode_add_of_slices hop hfunct

theorem adduRow_matches_iff (w : Word) :
    adduRow.Matches w ↔
      decode w = .ok (.addu (w.extractLsb' 11 5) (w.extractLsb' 21 5) (w.extractLsb' 16 5) (w.extractLsb' 6 5)) :=
  row_matches_iff_decode (i := .addu ..) fun h =>
    have ⟨hop, hfunct⟩ := (functMask_iff w 0x21#6).1 h
    encode_addu_of_slices hop hfunct

theorem jRow_matches_iff (w : Word) : jRow.Matches w ↔ decode w = .ok (.j (w.extractLsb' 0 26)) :=
  row_matches_iff_decode fun h => encode_j_of_slices ((opMask_iff w 0x02#6).1 h)

theorem lwRow_matches_iff (w : Word) :
    lwRow.Matches w ↔ decode w = .ok (.lw (w.extractLsb' 16 5) (w.extractLsb' 21 5) (w.extractLsb' 0 16)) :=
  row_matches_iff_decode fun h => encode_lw_of_slices ((opMask_iff w 0x23#6).1 h)

/-- A word of some row is an instruction. -/
theorem exists_decode_of_matches {r : OpcodeRow} {w : Word} (hr : r ∈ opcodeTable) (h : r.Matches w) :
    ∃ i, decode w = .ok i := by
  simp only [opcodeTable, List.mem_cons, List.not_mem_nil, or_false] at hr
  rcases hr with rfl | rfl | rfl | rfl | rfl
  · exact ⟨_, (oriRow_matches_iff w).1 h⟩
  · exact ⟨_, (addRow_matches_iff w).1 h⟩
  · exact ⟨_, (adduRow_matches_iff w).1 h⟩
  · exact ⟨_, (jRow_matches_iff w).1 h⟩
  · exact ⟨_, (lwRow_matches_iff w).1 h⟩

/-- Two rows that differ under both masks match no common word. -/
theorem not_both_match {a b : OpcodeRow} (h : a.pattern &&& b.mask ≠ b.pattern &&& a.mask) (w : Word) :
    ¬ (a.Matches w ∧ b.Matches w) := by
  rintro ⟨ha, hb⟩
  apply h
  calc a.pattern &&& b.mask = w &&& a.mask &&& b.mask := by rw [ha]
    _ = w &&& b.mask &&& a.mask := by rw [BitVec.and_assoc, BitVec.and_comm a.mask, BitVec.and_assoc]
    _ = b.pattern &&& a.mask := by rw [hb]

theorem opcodeTable_distinct :
    opcodeTable.Pairwise (fun a b => a.pattern &&& b.mask ≠ b.pattern &&& a.mask) := by decide

theorem decode_eq_error_iff (w : Word) :
    (∃ e, decode w = .error e) ↔ ∀ r ∈ opcodeTable, ¬ r.Matches w := by
  constructor
  · rintro ⟨e, he⟩ r hr hm
    obtain ⟨i, hi⟩ := exists_decode_of_matches hr hm
    rw [he] at hi
    cases hi
  · intro h
    cases hd : decode w with
    | error e => exact ⟨e, rfl⟩
    | ok i => exact absurd (encode_of_decode hd ▸ encode_matches_row i) (h _ (row_mem_opcodeTable i))

/-- Settles O3: each row's test is `row_matches_iff_decode` for its instruction; rows are told apart by the bits that
both masks test; and a word that decodes lies in its instruction's row. -/
theorem decodeFollowsTheOpcodeTable : Obligations.DecodeFollowsTheOpcodeTable := by
  unfold Obligations.DecodeFollowsTheOpcodeTable
  refine ⟨fun w => ⟨?ori, ?add, ?addu, ?j, ?lw⟩, ?disjoint, fun w => ?rejected⟩
  case ori => exact oriRow_matches_iff w
  case add => exact addRow_matches_iff w
  case addu => exact adduRow_matches_iff w
  case j => exact jRow_matches_iff w
  case lw => exact lwRow_matches_iff w
  case disjoint => exact opcodeTable_distinct.imp not_both_match
  case rejected => exact (decode_eq_error_iff w).symm

end Sys2Proof
end

section
/-! The state after an instruction that is `OK`, field by field: `exec_effect` carried through phases 5 and 6. -/

namespace Sys2Proof.Machine

variable {s t : State} {i : Instr}

theorem exec_keepsStorage (h : exec i s = .next t) : KeepsStorage s t := by
  obtain ⟨c, rfl, he⟩ := exec_effect h
  exact
    { code := (endStep_code c).trans he.code
      cycle := (endStep_cycle c).trans he.cycle
      hi := (endStep_hi c).trans he.hi
      lo := (endStep_lo c).trans he.lo
      cop2 := (endStep_cop2 c).trans he.cop2
      settings := (endStep_settings c).trans he.settings
      params := (endStep_params c).trans he.params
      dataAnswers := (endStep_dataAnswers c).trans he.dataAnswers
      icache := fun a => by rw [endStep_icache, he.icache] }

theorem exec_icache (h : exec i s = .next t) : t.icache = s.icache := by
  obtain ⟨c, rfl, he⟩ := exec_effect h
  rw [endStep_icache, he.icache]

theorem exec_zeroCell (h : exec i s = .next t) : t.gpr[0] = s.gpr[0] := by
  obtain ⟨c, rfl, he⟩ := exec_effect h
  rw [endStep_zeroCell, he.zeroCell]

theorem exec_cop0 (h : exec i s = .next t) : t.cop0 = cop0After s i := by
  obtain ⟨c, rfl, he⟩ := exec_effect h
  rw [endStep_cop0, he.cop0]

theorem exec_dataReads (h : exec i s = .next t) :
    t.dataReads = s.dataReads + if (issues s i).valid then 1 else 0 := by
  obtain ⟨c, rfl, he⟩ := exec_effect h
  rw [endStep_dataReads, he.dataReads]

/-- A register that the instruction does not write shows the older load alone. -/
theorem exec_readReg (h : exec i s = .next t) {r : RegIdx} (hr : ¬ (writes s i ≠ 0#5 ∧ writes s i = r)) :
    readReg t r = regAfterLoad s (loadLands s i) r := by
  obtain ⟨c, rfl, he⟩ := exec_effect h
  rw [readReg_endStep, he.oldValid, he.oldReg, he.oldValue, he.reg, if_neg hr, regAfterLoad]

theorem exec_readReg_of_writes_zero (h : exec i s = .next t) (hw : writes s i = 0#5) (r : RegIdx) :
    readReg t r = regAfterLoad s (loadLands s i) r :=
  exec_readReg h fun hr => hr.1 hw

/-- The events of the instruction's action, then that of an older load that lands. -/
theorem exec_events (h : exec i s = .next t) :
    t.events = s.events ++ actionEvents s i ++ loadEvents s (loadLands s i) := by
  obtain ⟨c, rfl, he⟩ := exec_effect h
  rw [endStep_events, he.events, he.oldValid, he.oldReg, he.oldValue, he.params, loadEvents]
  by_cases hland : loadLands s i = true ∧ s.ld.reg = s.params.spIndex
  · have hkept : readReg c.st s.ld.reg = readReg s s.ld.reg := by
      rw [he.reg, if_neg]
      rintro ⟨hw, hr⟩
      rw [loadLands_of_writes hw hr.symm] at hland
      cases hland.1
    rw [if_pos hland, if_pos hland, hkept]
  · rw [if_neg hland, if_neg hland]

theorem readCop0_congr (h : t.cop0 = s.cop0) (n : RegIdx) : readCop0 t n = readCop0 s n := by
  simp only [readCop0, h]

theorem readCop2_congr (h : t.cop2 = s.cop2) (n : RegIdx) : readCop2 t n = readCop2 s n := by
  simp only [readCop2, h]

end Sys2Proof.Machine
end

section
/-! Exception entry (60_exceptions.md R234 to R237), bit by bit: what it makes of SR and of CAUSE. -/

namespace Sys2Proof.Machine

theorem pushedSr_getLsbD (sr : Word) {b : Nat} (hb : b < 32) :
    (pushedSr sr).getLsbD b =
      if b < 2 then false else if b < 6 then sr.getLsbD (b - 2) else sr.getLsbD b := by
  unfold pushedSr
  interval_cases b <;> simp

/-- BD, CE, the code, and the bits that are kept. -/
theorem recordedCause_getLsbD (c : Word) (k : ExceptionKind) (bd : Bool) (ce : BitVec 2) {b : Nat} (hb : b < 32) :
    (recordedCause c k bd ce).getLsbD b =
      if b = 31 then bd
      else if b = 28 ∨ b = 29 then ce.getLsbD (b - 28)
      else if 2 ≤ b ∧ b ≤ 6 then (excCode k).getLsbD (b - 2)
      else c.getLsbD b := by
  unfold recordedCause
  interval_cases b <;> simp

/-- A record leaves nothing of the record before it. -/
theorem recordedCause_recordedCause (c : Word) (k k' : ExceptionKind) (bd bd' : Bool) (ce ce' : BitVec 2) :
    recordedCause (recordedCause c k bd ce) k' bd' ce' = recordedCause c k' bd' ce' := by
  apply BitVec.eq_of_getLsbD_eq
  intro b hb
  rw [recordedCause_getLsbD _ _ _ _ hb, recordedCause_getLsbD _ _ _ _ hb, recordedCause_getLsbD _ _ _ _ hb]
  split_ifs <;> rfl

/-- The exception code stands in bits 6:2. -/
theorem recordedCause_code (c : Word) (k : ExceptionKind) (bd : Bool) (ce : BitVec 2) :
    (recordedCause c k bd ce).extractLsb' 2 5 = excCode k := by
  apply BitVec.eq_of_getLsbD_eq
  intro b hb
  rw [BitVec.getLsbD_extractLsb', recordedCause_getLsbD _ _ _ _ (by omega), if_neg (by omega), if_neg (by omega),
    if_pos (by omega), decide_eq_true hb, Bool.true_and, Nat.add_sub_cancel_left]

/-- CE stands in bits 29:28. -/
theorem recordedCause_ce (c : Word) (k : ExceptionKind) (bd : Bool) (ce : BitVec 2) :
    (recordedCause c k bd ce).extractLsb' 28 2 = ce := by
  apply BitVec.eq_of_getLsbD_eq
  intro b hb
  rw [BitVec.getLsbD_extractLsb', recordedCause_getLsbD _ _ _ _ (by omega), if_neg (by omega), if_pos (by omega),
    decide_eq_true hb, Bool.true_and, Nat.add_sub_cancel_left]

section

variable (s : State) (k : ExceptionKind) (bd cop : Bool)

theorem takeException_epc : readCop0 (takeException k bd cop s) 14#5 =
    if s.params.epcBdAdjust = true ∧ bd = true then s.pc - 4#32 else s.pc := readCop0_takeException ..

theorem takeException_sr : readCop0 (takeException k bd cop s) 12#5 = pushedSr (readCop0 s 12#5) :=
  readCop0_takeException ..

theorem takeException_cause : readCop0 (takeException k bd cop s) 13#5 =
    recordedCause (readCop0 s 13#5) k bd (if cop then s.params.ceForCopFault else 0#2) := readCop0_takeException ..

theorem takeException_cop0_other {n : RegIdx} (h12 : n ≠ 12#5) (h13 : n ≠ 13#5) (h14 : n ≠ 14#5) :
    readCop0 (takeException k bd cop s) n = readCop0 s n := by
  rw [readCop0_takeException, if_neg h14, if_neg h12, if_neg h13]

end

/-- Settles O19: the adjustment wants both the parameter and the delay slot. -/
theorem exceptionEntrySavesTheFaultingAddress : Obligations.ExceptionEntrySavesTheFaultingAddress := by
  unfold Obligations.ExceptionEntrySavesTheFaultingAddress
  intro s k bd cop
  rw [takeException_epc]
  refine ⟨fun hadj hbd => if_pos ⟨hadj, hbd⟩, fun hno => if_neg ?_⟩
  rintro ⟨hadj, hbd⟩
  rcases hno with h | h
  · exact Bool.false_ne_true (h.symm.trans hadj)
  · exact Bool.false_ne_true (h.symm.trans hbd)

/-- Settles O20: the bits of `pushedSr`. -/
theorem exceptionEntryPushesTheStatusStack : Obligations.ExceptionEntryPushesTheStatusStack := by
  unfold Obligations.ExceptionEntryPushesTheStatusStack
  intro s k bd cop b hb
  rw [takeException_sr, pushedSr_getLsbD _ hb]

/-- Settles O21: the bits of `recordedCause`. -/
theorem exceptionEntryRecordsTheCause : Obligations.ExceptionEntryRecordsTheCause := by
  unfold Obligations.ExceptionEntryRecordsTheCause
  intro s bd cop c
  have hc : c = recordedCause (readCop0 s 13#5) .arithmeticOverflow bd (if cop then s.params.ceForCopFault else 0#2) :=
    takeException_cause ..
  rw [hc]
  refine ⟨?bd, recordedCause_ce .., recordedCause_code .., ?kept⟩
  case bd => rw [recordedCause_getLsbD _ _ _ _ (by decide), if_pos rfl]
  case kept =>
    intro b hb h31 h28 h29 hcode
    rw [recordedCause_getLsbD _ _ _ _ hb, if_neg h31, if_neg (by omega), if_neg (by omega)]

/-- Settles O22: entry is three writes of COP0 and one of `pc`. -/
theorem exceptionEntryRedirectsAndWritesNothingElse : Obligations.ExceptionEntryRedirectsAndWritesNothingElse := by
  unfold Obligations.ExceptionEntryRedirectsAndWritesNothingElse
  intro s k bd cop
  exact ⟨rfl, fun _ => takeException_cop0_other s k bd cop, rfl⟩

/-- Settles O23: the second entry reads SR and CAUSE as the first left them; a record overwrites a record, and a push
moves what a push left. -/
theorem nestedExceptionOverwritesTheFirst : Obligations.NestedExceptionOverwritesTheFirst := by
  unfold Obligations.NestedExceptionOverwritesTheFirst
  intro s t bd bd' cop cop' hcop0 hparams u
  have hsr : readCop0 u 12#5 = pushedSr (pushedSr (readCop0 s 12#5)) :=
    (takeException_sr ..).trans (congrArg pushedSr ((readCop0_congr hcop0 _).trans (takeException_sr ..)))
  refine ⟨?epc, ?cause, ?moved, ?zeros, ?kept⟩
  case epc => exact hparams ▸ takeException_epc ..
  case cause =>
    rw [takeException_cause, readCop0_congr hcop0, takeException_cause, recordedCause_recordedCause, hparams]
  all_goals
    rw [hsr]
    apply BitVec.eq_of_getLsbD_eq
    intro b hb
    rw [BitVec.getLsbD_extractLsb', pushedSr_getLsbD _ (by omega), decide_eq_true hb, Bool.true_and]
  case moved =>
    rw [if_neg (by omega), if_pos (by omega), pushedSr_getLsbD _ (by omega), if_neg (by omega), if_pos (by omega),
      BitVec.getLsbD_extractLsb', decide_eq_true hb, Bool.true_and]
    congr 1
    omega
  case zeros =>
    rw [BitVec.getLsbD_zero]
    by_cases hlow : b < 2
    · rw [if_pos (by omega)]
    · rw [if_neg (by omega), if_pos (by omega), pushedSr_getLsbD _ (by omega), if_pos (by omega)]
  case kept =>
    rw [if_neg (by omega), if_neg (by omega), pushedSr_getLsbD _ (by omega), if_neg (by omega), if_neg (by omega),
      BitVec.getLsbD_extractLsb', decide_eq_true hb, Bool.true_and]

end Sys2Proof.Machine
end

section
/-! COP0 after an instruction that is `OK`: that of exception entry at its own offset if it traps, as before if not. -/

namespace Sys2Proof.Machine

variable {s t : State} {i : Instr}

/-- COP0 after a trap: exception entry at the instruction's own offset. -/
theorem exec_readCop0_of_traps (h : exec i s = .next t) (ht : traps s i = true) (n : RegIdx) :
    readCop0 t n =
      readCop0 (takeException .arithmeticOverflow s.inDelaySlot false (setPc (s.pc - 4#32) s)) n :=
  readCop0_congr ((exec_cop0 h).trans (if_pos ht)) n

theorem exec_epc_of_traps (h : exec i s = .next t) (ht : traps s i = true) :
    readCop0 t 14#5 =
      if s.params.epcBdAdjust = true ∧ s.inDelaySlot = true then s.pc - 8#32 else s.pc - 4#32 := by
  rw [exec_readCop0_of_traps h ht, takeException_epc, setPc_pc, setPc_params, BitVec.sub_sub]
  rfl

theorem exec_sr_of_traps (h : exec i s = .next t) (ht : traps s i = true) :
    readCop0 t 12#5 = pushedSr (readCop0 s 12#5) := by
  rw [exec_readCop0_of_traps h ht, takeException_sr, readCop0_setPc]

theorem exec_cause_of_traps (h : exec i s = .next t) (ht : traps s i = true) :
    readCop0 t 13#5 = recordedCause (readCop0 s 13#5) .arithmeticOverflow s.inDelaySlot 0#2 := by
  rw [exec_readCop0_of_traps h ht, takeException_cause, readCop0_setPc]
  rfl

theorem exec_readCop0_other (h : exec i s = .next t) {n : RegIdx} (h12 : n ≠ 12#5) (h13 : n ≠ 13#5)
    (h14 : n ≠ 14#5) : readCop0 t n = readCop0 s n := by
  cases ht : traps s i with
  | false => exact readCop0_congr (exec_cop0_of_not_traps h ht) n
  | true => rw [exec_readCop0_of_traps h ht, takeException_cop0_other _ _ _ _ h12 h13 h14, readCop0_setPc]

end Sys2Proof.Machine
end

section
/-! The logged no-op (40_step_fetch_dispatch.md R118, R119), field by field: its action is one event, and phases 5
and 6 run as for any instruction. -/

namespace Sys2Proof.Machine

variable {s t : State}

theorem execUnimplemented_eq_next (h : execUnimplemented s = .next t) : t = endStep (noOpCtx s) := by
  rw [execUnimplemented_eq] at h
  cases h
  rfl

theorem execUnimplemented_keepsStorage (h : execUnimplemented s = .next t) : KeepsStorage s t := by
  rw [execUnimplemented_eq_next h]
  constructor <;> simp [noOpCtx]

theorem execUnimplemented_icache (h : execUnimplemented s = .next t) : t.icache = s.icache := by
  simp [execUnimplemented_eq_next h, noOpCtx]

theorem execUnimplemented_zeroCell (h : execUnimplemented s = .next t) : t.gpr[0] = s.gpr[0] := by
  simp [execUnimplemented_eq_next h, noOpCtx]

theorem execUnimplemented_cop0 (h : execUnimplemented s = .next t) : t.cop0 = s.cop0 := by
  simp [execUnimplemented_eq_next h, noOpCtx]

theorem execUnimplemented_dataReads (h : execUnimplemented s = .next t) : t.dataReads = s.dataReads := by
  simp [execUnimplemented_eq_next h, noOpCtx]

theorem execUnimplemented_ld (h : execUnimplemented s = .next t) : t.ld = LoadSlot.empty := by
  simp [execUnimplemented_eq_next h, noOpCtx]

theorem execUnimplemented_readReg (h : execUnimplemented s = .next t) (r : RegIdx) :
    readReg t r = regAfterLoad s s.ld.valid r := by
  simp [execUnimplemented_eq_next h, noOpCtx, regAfterLoad]

theorem execUnimplemented_events (h : execUnimplemented s = .next t) :
    t.events = s.events ++ unknownInstructionEvent s.code :: loadEvents s s.ld.valid := by
  rw [execUnimplemented_eq_next h, endStep_events, List.append_cons]
  rfl

end Sys2Proof.Machine
end

section
/-! A step that is `OK` runs an instruction, or the logged no-op, on the state the fetch leaves. -/

namespace Sys2Proof.Machine

variable {s t : State} {w : Word}

/-- The run of the word `w` on the state `s` after its fetch, with `t` as its next state. -/
inductive Runs (w : Word) (s t : State) : Prop where
  | instr (i : Instr) (hd : decode w = .ok i) (h : exec i s = .next t)
  | noOp (e : DecodeReject) (hd : decode w = .error e) (h : execUnimplemented s = .next t)

theorem runs_of_step (hf : iFetch s s.pc = some w) (h : step s = .next t) : Runs w (afterFetch w s) t := by
  cases hd : decode w with
  | ok i => exact .instr i hd (step_of_decode_ok hf hd ▸ h)
  | error e => exact .noOp e hd (step_of_decode_error hf hd ▸ h)

theorem step_runs (h : step s = .next t) : ∃ w, iFetch s s.pc = some w ∧ Runs w (afterFetch w s) t := by
  cases hf : iFetch s s.pc with
  | none => rw [step_of_iFetch_none hf] at h; cases h
  | some w => exact ⟨w, rfl, runs_of_step hf h⟩

theorem Runs.keepsStorage (h : Runs w s t) : KeepsStorage s t := by
  cases h with
  | instr i hd h => exact exec_keepsStorage h
  | noOp e hd h => exact execUnimplemented_keepsStorage h

/-- COP0 changes by a trapping instruction only. -/
theorem Runs.cop0_eq_or_traps (h : Runs w s t) :
    t.cop0 = s.cop0 ∨ ∃ i, decode w = .ok i ∧ exec i s = .next t ∧ traps s i = true := by
  cases h with
  | instr i hd h =>
    cases ht : traps s i with
    | false => exact .inl (exec_cop0_of_not_traps h ht)
    | true => exact .inr ⟨i, hd, h, ht⟩
  | noOp e hd h => exact .inl (execUnimplemented_cop0 h)

/-- Settles O9: the fetch writes both fields, and nothing after it does. -/
theorem everyOkStepRecordsCodeAndCycle : Obligations.EveryOkStepRecordsCodeAndCycle := by
  unfold Obligations.EveryOkStepRecordsCodeAndCycle
  intro s t h
  obtain ⟨w, hf, hrun⟩ := step_runs h
  have hkeep := hrun.keepsStorage
  have hcode : t.code = w := hkeep.code
  exact ⟨hcode ▸ hf, hkeep.cycle⟩

/-- An exception writes no COP0 register but EPC, SR and CAUSE, and no other step writes COP0 at all. -/
theorem Runs.readCop0_other (h : Runs w s t) {n : RegIdx} (h12 : n ≠ 12#5) (h13 : n ≠ 13#5) (h14 : n ≠ 14#5) :
    readCop0 t n = readCop0 s n := by
  cases h with
  | instr i hd h => exact exec_readCop0_other h h12 h13 h14
  | noOp e hd h => exact readCop0_congr (execUnimplemented_cop0 h) n

/-- Settles O41: neither the fetch nor what runs after it writes any of it, but that an exception writes three
registers of COP0. -/
theorem noStepWritesStorage : Obligations.NoStepWritesStorage := by
  unfold Obligations.NoStepWritesStorage
  intro s t h
  obtain ⟨w, -, hrun⟩ := step_runs h
  have hkeep := hrun.keepsStorage
  exact ⟨hkeep.hi, hkeep.lo, hkeep.cop2, hkeep.settings, hkeep.params, hkeep.dataAnswers, hkeep.icache,
    fun _ => hrun.readCop0_other⟩

end Sys2Proof.Machine
end

section
/-! The invariant of the machine's states (10_state.md R24, R38): the fetch keeps it, and so does all that runs after
it. The addresses a step can put in `pc` are sums with 4, the vector, and concatenations that end in two zeros. -/

namespace Sys2Proof.Machine

variable {s t : State} {i : Instr}

theorem aligned_iff {a : Word} : Aligned a ↔ a.toNat % 4 = 0 := by
  rw [Aligned, ← BitVec.toNat_inj, toNat_lowSlice]
  rfl

theorem aligned_add_four {a : Word} (h : Aligned a) : Aligned (a + 4#32) := by
  rw [aligned_iff] at h ⊢
  rw [BitVec.toNat_add, BitVec.toNat_ofNat]
  omega

theorem toNat_jumpTarget (pc : Word) (target : BitVec 26) :
    (jumpTarget pc target).toNat = pc.toNat / 2 ^ 28 * 2 ^ 28 + target.toNat * 4 := by
  have hlow : target.toNat <<< 2 < 2 ^ 28 := by have := target.isLt; rw [Nat.shiftLeft_eq]; omega
  rw [jumpTarget, BitVec.toNat_append, BitVec.toNat_append, BitVec.toNat_ofNat, toNat_highSlice pc rfl,
    Nat.zero_mod, Nat.or_zero, Nat.shiftLeft_or_distrib, ← Nat.shiftLeft_add,
    ← Nat.shiftLeft_add_eq_or_of_lt hlow, Nat.shiftLeft_eq, Nat.shiftLeft_eq]

theorem aligned_jumpTarget (pc : Word) (target : BitVec 26) : Aligned (jumpTarget pc target) := by
  rw [aligned_iff, toNat_jumpTarget]
  omega

/-- What an instruction arms is the target of a jump, or nothing. -/
theorem aligned_armed (h : Aligned s.branchTarget) (i : Instr) : Aligned ((armed s i).getD s.branchTarget) := by
  cases hb : branches s i with
  | false => rwa [armed_of_not_branches hb]
  | true =>
    obtain ⟨tgt, -, ha⟩ := armed_of_branches hb
    rw [ha]
    exact aligned_jumpTarget ..

theorem issues_lw (s : State) (rt rs : RegIdx) (imm : BitVec 16) :
    issues s (.lw rt rs imm) =
      if s.params.extJl = true ∧ rt ≠ 0#5 then ⟨true, rt, dataWordAt s (effectiveAddress (readReg s rs) imm)⟩
      else LoadSlot.empty := rfl

/-- A load is issued by an LW with a destination other than 0. -/
theorem issues_reg_ne_zero (h : (issues s i).valid = true) : (issues s i).reg ≠ 0#5 := by
  cases i with
  | lw rt rs imm =>
    rw [issues_lw] at h ⊢
    split at h
    next hrt => rw [if_pos hrt]; exact hrt.2
    next => cases h
  | ori _ _ _ => cases h
  | add _ _ _ _ => cases h
  | addu _ _ _ _ => cases h
  | j _ => cases h

theorem afterFetch_keeps_inv (hi : Inv s) (w : Word) : Inv (afterFetch w s) :=
  ⟨hi.paramsWf, hi.icacheWf, hi.icacheInside, hi.zeroCell, aligned_add_four hi.pcAligned, hi.targetAligned, hi.loadReg⟩

/-- What a run after the fetch keeps of the invariant, whatever the word is, is left to its `pc`, its branch target
and its load slot. -/
theorem inv_of_keepsStorage (hi : Inv s) (hkeep : KeepsStorage s t) (hcache : t.icache = s.icache)
    (hcell : t.gpr[0] = s.gpr[0]) (hpc : Aligned t.pc) (htarget : Aligned t.branchTarget)
    (hld : t.ld.valid = true → t.ld.reg ≠ 0#5) : Inv t where
  paramsWf := hkeep.params ▸ hi.paramsWf
  icacheWf := hcache ▸ hi.icacheWf
  icacheInside := by rw [hcache, hkeep.params]; exact hi.icacheInside
  zeroCell := hcell.trans hi.zeroCell
  pcAligned := hpc
  targetAligned := htarget
  loadReg := hld

theorem exec_keeps_inv (hi : Inv s) (h : exec i s = .next t) : Inv t := by
  refine inv_of_keepsStorage hi (exec_keepsStorage h) (exec_icache h) (exec_zeroCell h) ?pc ?target ?ld
  case pc =>
    cases ht : traps s i with
    | true =>
      obtain ⟨-, hvector, -⟩ := hi.paramsWf
      rwa [exec_pc_of_traps h ht]
    | false =>
      rw [exec_pc_of_not_traps h ht]
      split
      · exact hi.targetAligned
      · exact hi.pcAligned
  case target =>
    rw [exec_branchTarget h]
    split
    · exact hi.targetAligned
    · exact aligned_armed hi.targetAligned i
  case ld =>
    rw [exec_ld h]
    exact issues_reg_ne_zero

theorem execUnimplemented_keeps_inv (hi : Inv s) (h : execUnimplemented s = .next t) : Inv t := by
  obtain ⟨hpc, -, htarget⟩ := execUnimplemented_sequencedOn h
  refine inv_of_keepsStorage hi (execUnimplemented_keepsStorage h) (execUnimplemented_icache h)
    (execUnimplemented_zeroCell h) ?pc ?target ?ld
  case pc =>
    rw [hpc]
    split
    · exact hi.targetAligned
    · exact hi.pcAligned
  case target => exact htarget ▸ hi.targetAligned
  case ld => simp [execUnimplemented_ld h]

/-- Settles O43: the invariant holds after the fetch, and then after the instruction or the no-op. -/
theorem stepKeepsTheInvariant : Obligations.StepKeepsTheInvariant := by
  unfold Obligations.StepKeepsTheInvariant
  intro s t hi h
  obtain ⟨w, -, hrun⟩ := step_runs h
  have hi' := afterFetch_keeps_inv hi w
  cases hrun with
  | instr i hd h => exact exec_keeps_inv hi' h
  | noOp e hd h => exact execUnimplemented_keeps_inv hi' h

end Sys2Proof.Machine
end

section
/-! What no step writes (10_state.md sections 4 and 5): a step that leaves COP0 keeps all of it; a trap writes EPC,
which is free, pushes an SR of 0 to 0, and records one of the two causes. -/

namespace Sys2Proof.Machine

variable {s t : State} {i : Instr} {w : Word}

theorem storageInv_of_cop0_eq (hi : StorageInv s) (hkeep : KeepsStorage s t) (hcop0 : t.cop0 = s.cop0) :
    StorageInv t where
  hi := hkeep.hi.trans hi.hi
  lo := hkeep.lo.trans hi.lo
  cop2 n := (readCop2_congr hkeep.cop2 n).trans (hi.cop2 n)
  cop0 n hsr hcause hepc := (readCop0_congr hcop0 n).trans (hi.cop0 n hsr hcause hepc)
  sr := (readCop0_congr hcop0 _).trans hi.sr
  cause := by rw [readCop0_congr hcop0]; exact hi.cause

theorem pushedSr_zero : pushedSr 0#32 = 0#32 := by decide

/-- From no cause or a recorded one, a trap records overflow, in a delay slot or not. -/
theorem recordedCause_closed {c : Word} (hc : c = 0#32 ∨ c = 0x00000030#32 ∨ c = 0x80000030#32) (bd : Bool) :
    recordedCause c .arithmeticOverflow bd 0#2 = 0x00000030#32 ∨
    recordedCause c .arithmeticOverflow bd 0#2 = 0x80000030#32 := by
  cases bd with
  | false => left; rcases hc with rfl | rfl | rfl <;> decide
  | true => right; rcases hc with rfl | rfl | rfl <;> decide

theorem storageInv_of_traps (hi : StorageInv s) (h : exec i s = .next t) (ht : traps s i = true) : StorageInv t where
  hi := (exec_keepsStorage h).hi.trans hi.hi
  lo := (exec_keepsStorage h).lo.trans hi.lo
  cop2 n := (readCop2_congr (exec_keepsStorage h).cop2 n).trans (hi.cop2 n)
  cop0 n hsr hcause hepc := (exec_readCop0_other h hsr hcause hepc).trans (hi.cop0 n hsr hcause hepc)
  sr := (exec_sr_of_traps h ht).trans ((congrArg pushedSr hi.sr).trans pushedSr_zero)
  cause := .inr (exec_cause_of_traps h ht ▸ recordedCause_closed hi.cause s.inDelaySlot)

/-- Settles O45: COP0 stays unless the step traps, and a trap keeps the invariant; the fetch writes none of it. -/
theorem stepKeepsTheStorageInvariant : Obligations.StepKeepsTheStorageInvariant := by
  unfold Obligations.StepKeepsTheStorageInvariant
  intro s t hi h
  obtain ⟨w, -, hrun⟩ := step_runs h
  have hi' : StorageInv (afterFetch w s) := ⟨hi.hi, hi.lo, hi.cop2, hi.cop0, hi.sr, hi.cause⟩
  rcases hrun.cop0_eq_or_traps with heq | ⟨i, -, h, ht⟩
  · exact storageInv_of_cop0_eq hi' hrun.keepsStorage heq
  · exact storageInv_of_traps hi' h ht

/-- Where the profile is absent no instruction arms a branch or issues a load. -/
theorem coreOnlyInv_of_exec (hi : CoreOnlyInv s) (h : exec i s = .next t) : CoreOnlyInv t where
  coreOnly := (exec_keepsStorage h).params ▸ hi.coreOnly
  noDelaySlot := by
    have hb : branches s i = false := by cases i with
      | j target => exact hi.coreOnly
      | ori _ _ _ => rfl
      | add _ _ _ _ => rfl
      | addu _ _ _ _ => rfl
      | lw _ _ _ => rfl
    rw [exec_inDelaySlot h, armed_of_not_branches hb, Option.isSome_none, ite_self]
  noPendingLoad := by
    have hissue : issues s i = LoadSlot.empty := by cases i with
      | lw rt rs imm => exact if_neg fun hlw => Bool.false_ne_true (hi.coreOnly.symm.trans hlw.1)
      | ori _ _ _ => rfl
      | add _ _ _ _ => rfl
      | addu _ _ _ _ => rfl
      | j _ => rfl
    rw [exec_ld h, hissue, empty_valid]

/-- Settles O46: the words of J and LW run as the logged no-op there, and nothing else arms or issues. -/
theorem stepKeepsTheCoreOnlyInvariant : Obligations.StepKeepsTheCoreOnlyInvariant := by
  unfold Obligations.StepKeepsTheCoreOnlyInvariant
  intro s t hi h
  obtain ⟨w, -, hrun⟩ := step_runs h
  have hi' : CoreOnlyInv (afterFetch w s) := ⟨hi.coreOnly, hi.noDelaySlot, hi.noPendingLoad⟩
  cases hrun with
  | instr i hd h => exact coreOnlyInv_of_exec hi' h
  | noOp e hd h =>
    exact ⟨(execUnimplemented_keepsStorage h).params ▸ hi'.coreOnly, (execUnimplemented_sequencedOn h).normal,
      by rw [execUnimplemented_ld h, empty_valid]⟩

end Sys2Proof.Machine
end

section
/-! The fetch (20_memory.md R52, R54) and the fatal ends of a step (40_step_fetch_dispatch.md R101). -/

namespace Sys2Proof.Machine

variable {s : State} {i : Instr} {r : Fault} {w : Word}

/-- Little-endian, on naturals: each byte appended in front stands above those before it. -/
theorem toNat_wordOfBytes (b0 b1 b2 b3 : Byte) :
    (wordOfBytes b0 b1 b2 b3).toNat = b0.toNat + 2 ^ 8 * b1.toNat + 2 ^ 16 * b2.toNat + 2 ^ 24 * b3.toNat := by
  have happend {n : Nat} (x : BitVec n) (b : Byte) : (x ++ b).toNat = x.toNat * 2 ^ 8 + b.toNat := by
    rw [BitVec.toNat_append, ← Nat.shiftLeft_add_eq_or_of_lt b.isLt, Nat.shiftLeft_eq]
  rw [wordOfBytes, happend, happend, happend]
  omega

/-- Settles O8: the two clauses are the two answers of `iFetch`, and a fetch that answers nothing ends the step. -/
theorem fetchIsLittleEndianOrFatal : Obligations.FetchIsLittleEndianOrFatal := by
  unfold Obligations.FetchIsLittleEndianOrFatal
  intro s
  refine ⟨fun hin => ?word, fun hout => ?fatal⟩
  case word => exact ⟨_, iFetch_eq_some.2 ⟨hin, rfl⟩, toNat_wordOfBytes ..⟩
  case fatal =>
    have hf : iFetch s s.pc = none := iFetch_eq_none.2 hout
    exact ⟨hf, step_of_iFetch_none hf⟩

/-- Settles O7: the state that the fetch leaves is the one written out. -/
theorem stepRunsTheDecodedInstruction : Obligations.StepRunsTheDecodedInstruction := by
  unfold Obligations.StepRunsTheDecodedInstruction
  exact fun _ _ _ hf hd => step_of_decode_ok hf hd

theorem exec_ne_refused (i : Instr) (s : State) (r : Refusal) : exec i s ≠ .refused r := by
  rcases exec_outcome i s with ⟨t, h⟩ | ⟨_, _, _, _, h⟩ | ⟨_, _, _, _, _, _, _, h⟩ <;> simp [h]

/-- Only J and LW are ever fatal. -/
theorem exec_eq_fault_iff :
    exec i s = .fault r ↔
      (∃ tgt, i = .j tgt ∧ s.params.extJl = true ∧ s.inDelaySlot = true ∧ r = .branchInDelaySlot (s.pc - 4#32)) ∨
      (∃ rt rs imm, i = .lw rt rs imm ∧ s.params.extJl = true ∧ rt ≠ 0#5 ∧
        ¬ Aligned (effectiveAddress (readReg s rs) imm) ∧
        r = .misalignedLoad (effectiveAddress (readReg s rs) imm)) := by
  constructor
  · intro h
    rcases exec_outcome i s with ⟨t, h'⟩ | ⟨tgt, hi, he, hds, h'⟩ | ⟨rt, rs, imm, hi, he, h0, ha, h'⟩ <;>
      rw [h'] at h <;> cases h
    · exact .inl ⟨tgt, hi, he, hds, rfl⟩
    · exact .inr ⟨rt, rs, imm, hi, he, h0, ha, rfl⟩
  · rintro (⟨tgt, rfl, he, hds, rfl⟩ | ⟨rt, rs, imm, rfl, he, h0, ha, rfl⟩)
    · exact exec_j_eq_fault he hds
    · exact exec_lw_eq_fault he h0 ha

/-- Past the fetch it is the instruction that is fatal: the logged no-op never is. -/
theorem step_eq_fault_iff (hf : iFetch s s.pc = some w) :
    step s = .fault r ↔ ∃ i, decode w = .ok i ∧ exec i (afterFetch w s) = .fault r := by
  cases hd : decode w with
  | ok i => simp [step_of_decode_ok hf hd]
  | error e => simp [step_of_decode_error hf hd, execUnimplemented_eq]

theorem step_ne_refused (s : State) (r : Refusal) : step s ≠ .refused r := by
  cases hf : iFetch s s.pc with
  | none => simp [step_of_iFetch_none hf]
  | some w =>
    cases hd : decode w with
    | ok i => rw [step_of_decode_ok hf hd]; exact exec_ne_refused i (afterFetch w s) r
    | error e => simp [step_of_decode_error hf hd, execUnimplemented_eq]

/-- The `pc` after the fetch, less 4, is the instruction's own offset. -/
theorem afterFetch_pc_sub (w : Word) (s : State) : (afterFetch w s).pc - 4#32 = s.pc := BitVec.add_sub_cancel ..

/-- Settles O10: the fetch's own fatal end, and past it the two of `exec_eq_fault_iff`. -/
theorem stepIsFatalExactlyAsListed : Obligations.StepIsFatalExactlyAsListed := by
  unfold Obligations.StepIsFatalExactlyAsListed
  refine fun s => ⟨step_ne_refused s, fun r => ?fatal⟩
  cases hf : iFetch s s.pc with
  | none =>
    rw [step_of_iFetch_none hf]
    constructor
    · intro h; cases h; exact .inl ⟨rfl, rfl⟩
    · rintro (⟨-, rfl⟩ | ⟨_, _, hw, _⟩ | ⟨_, _, _, _, hw, _⟩)
      · rfl
      · cases hw
      · cases hw
  | some w =>
    rw [step_eq_fault_iff hf]
    constructor
    · rintro ⟨i, hd, h⟩
      rcases exec_eq_fault_iff.1 h with ⟨tgt, rfl, he, hds, rfl⟩ | ⟨rt, rs, imm, rfl, he, h0, ha, rfl⟩
      · exact .inr (.inl ⟨w, tgt, rfl, hd, he, hds, by rw [afterFetch_pc_sub]⟩)
      · exact .inr (.inr ⟨w, rt, rs, imm, rfl, hd, he, h0, ha, rfl⟩)
    · rintro (⟨hw, -⟩ | ⟨_, tgt, hw, hd, he, hds, rfl⟩ | ⟨_, rt, rs, imm, hw, hd, he, h0, ha, rfl⟩) <;> cases hw
      · exact ⟨_, hd, exec_eq_fault_iff.2 (.inl ⟨tgt, rfl, he, hds, by rw [afterFetch_pc_sub]⟩)⟩
      · exact ⟨_, hd, exec_eq_fault_iff.2 (.inr ⟨rt, rs, imm, rfl, he, h0, ha, rfl⟩)⟩

/-- Settles O27: a fatal end of the instruction is the step's. -/
theorem jumpInADelaySlotIsFatal : Obligations.JumpInADelaySlotIsFatal := by
  unfold Obligations.JumpInADelaySlotIsFatal
  intro s w tgt he hds hf hd
  rw [step_of_decode_ok hf hd, exec_j_eq_fault (s := afterFetch w s) he hds, afterFetch_pc_sub]

/-- Settles O31: an address with a remainder modulo 4 is not aligned. -/
theorem misalignedLoadWordIsFatal : Obligations.MisalignedLoadWordIsFatal := by
  unfold Obligations.MisalignedLoadWordIsFatal
  intro s rt rs imm he h0 hrem
  exact exec_lw_eq_fault he h0 (mt aligned_iff.1 hrem)

/-- A word of no instruction, or of one that is not present, is the logged no-op. -/
theorem step_of_unimplemented (hf : iFetch s s.pc = some w)
    (hw : (∃ e, decode w = .error e) ∨ ∃ i, decode w = .ok i ∧ i.present s.params = false) :
    step s = execUnimplemented (afterFetch w s) := by
  rcases hw with ⟨e, hd⟩ | ⟨i, hd, hp⟩
  · exact step_of_decode_error hf hd
  · rw [step_of_decode_ok hf hd]
    exact exec_of_not_present hp

/-- Settles O11: the step is the no-op on the state after the fetch, whose field lemmas give the rest. -/
theorem unimplementedWordIsALoggedNoOp : Obligations.UnimplementedWordIsALoggedNoOp := by
  unfold Obligations.UnimplementedWordIsALoggedNoOp
  intro s w hf hw
  have h := execUnimplemented_eq (afterFetch w s)
  exact ⟨_, (step_of_unimplemented hf hw).trans h, execUnimplemented_events h, (execUnimplemented_readReg h :),
    execUnimplemented_ld h, (execUnimplemented_cop0 h :), (execUnimplemented_dataReads h :),
    execUnimplemented_sequencedOn h, execUnimplemented_keepsStorage h⟩

end Sys2Proof.Machine
end

section
/-! An instruction whose destination is register 0 (44_loads.md R205; 90_conflicts.md C3, C5): it cancels, writes and
issues nothing. J is one of them. -/

namespace Sys2Proof.Machine

variable {s t : State} {i : Instr}

theorem loadLands_of_destination_zero (hd : destination s i = 0#5) : loadLands s i = s.ld.valid := by
  simp [loadLands, cancelsLoad, hd]

theorem writes_of_destination_zero (hd : destination s i = 0#5) : writes s i = 0#5 := by
  by_contra hw
  exact hw ((destination_of_writes hw).1.symm.trans hd)

theorem issues_of_destination_zero (hd : destination s i = 0#5) : issues s i = LoadSlot.empty := by
  cases i with
  | lw rt rs imm => exact if_neg fun hlw => hlw.2 ((if_pos hlw.1).symm.trans hd)
  | ori _ _ _ => rfl
  | add _ _ _ _ => rfl
  | addu _ _ _ _ => rfl
  | j _ => rfl

theorem actionEvents_of_writes_zero (hp : i.present s.params = true) (ht : traps s i = false)
    (hw : writes s i = 0#5) : actionEvents s i = [] := by
  simp [actionEvents, hp, ht, hw]

/-- Nothing but the sequencing and an older load shows after it. -/
theorem exec_of_destination_zero (h : exec i s = .next t) (hp : i.present s.params = true)
    (ht : traps s i = false) (hd : destination s i = 0#5) :
    (∀ r, readReg t r = regAfterLoad s s.ld.valid r) ∧
    t.events = s.events ++ loadEvents s s.ld.valid ∧
    t.ld = LoadSlot.empty ∧ t.cop0 = s.cop0 ∧ t.dataReads = s.dataReads ∧ KeepsStorage s t := by
  have hw := writes_of_destination_zero hd
  have hl := loadLands_of_destination_zero hd
  have hissue := issues_of_destination_zero hd
  refine ⟨?reg, ?events, (exec_ld h).trans hissue, exec_cop0_of_not_traps h ht, ?dataReads, exec_keepsStorage h⟩
  case reg => exact fun r => hl ▸ exec_readReg_of_writes_zero h hw r
  case events => rw [exec_events h, actionEvents_of_writes_zero hp ht hw, hl, List.append_nil]
  case dataReads => rw [exec_dataReads h, hissue]; rfl

theorem exec_completes_of_destination_zero (hb : branches s i = false) (hd : destination s i = 0#5) :
    ∃ t, exec i s = .next t := by
  rcases exec_outcome i s with h | ⟨tgt, rfl, he, -⟩ | ⟨rt, rs, imm, rfl, he, h0, -⟩
  · exact h
  · cases he.symm.trans hb
  · exact absurd ((if_pos he).symm.trans hd) h0

/-- Settles O13: the three forms are present, do not branch, do not trap, and have destination 0. -/
theorem destinationZeroHasNoEffectOfItsOwn : Obligations.DestinationZeroHasNoEffectOfItsOwn := by
  unfold Obligations.DestinationZeroHasNoEffectOfItsOwn
  intro s i hform
  obtain ⟨hp, hb, ht, hd⟩ : i.present s.params = true ∧ branches s i = false ∧ traps s i = false ∧
      destination s i = 0#5 := by
    rcases hform with ⟨rs, imm, rfl⟩ | ⟨rs, rt, sh, rfl⟩ | ⟨rs, imm, rfl, he⟩
    · exact ⟨rfl, rfl, rfl, rfl⟩
    · exact ⟨rfl, rfl, rfl, rfl⟩
    · exact ⟨he, rfl, rfl, ite_self _⟩
  obtain ⟨t, h⟩ := exec_completes_of_destination_zero hb hd
  obtain ⟨hreg, hevents, hld, hcop0, hreads, hkeep⟩ := exec_of_destination_zero h hp ht hd
  exact ⟨t, h, hreg, hevents, hld, hcop0, hreads, exec_sequencedOn h hb ht, hkeep⟩

/-- Settles O26: a J in NORMAL arms its target, and for the rest it is an instruction with destination 0. -/
theorem jumpArmsTheDelaySlot : Obligations.JumpArmsTheDelaySlot := by
  unfold Obligations.JumpArmsTheDelaySlot
  intro s tgt he hds
  have hcompletes : ∃ t, exec (.j tgt) s = .next t := by
    rcases exec_outcome (.j tgt) s with h | ⟨_, _, _, hds', _⟩ | ⟨_, _, _, hlw, _⟩
    · exact h
    · cases hds'.symm.trans hds
    · cases hlw
  obtain ⟨t, h⟩ := hcompletes
  obtain ⟨hslot, hpc, _, hj, htarget⟩ := exec_arms_of_branches h hds he
  cases hj
  exact ⟨t, h, hslot, hpc, htarget ▸ toNat_jumpTarget .., exec_of_destination_zero h he rfl rfl⟩

end Sys2Proof.Machine
end

section
/-! Signed overflow (42_add.md R151): the sign-bit condition is the library's `saddOverflow`, the signed sum out of
range, and it is what makes the wrapped sum another number. -/

namespace Sys2Proof.Machine

variable {s t : State}

theorem addOverflows_eq_saddOverflow (a b : Word) : addOverflows a b = a.saddOverflow b := by
  rw [BitVec.saddOverflow_eq]
  rfl

theorem addOverflows_iff_out_of_range (a b : Word) :
    addOverflows a b = true ↔ a.toInt + b.toInt < -2 ^ 31 ∨ 2 ^ 31 - 1 < a.toInt + b.toInt := by
  rw [addOverflows_eq_saddOverflow, BitVec.saddOverflow, Bool.or_eq_true, decide_eq_true_iff, decide_eq_true_iff]
  omega

/-- Settles O14: it is the definition of `saddOverflow`. -/
theorem overflowIsTheSignedSumOutOfRange : Obligations.OverflowIsTheSignedSumOutOfRange := by
  unfold Obligations.OverflowIsTheSignedSumOutOfRange
  exact addOverflows_iff_out_of_range

/-- A wrapped sum is always in range, so it is the signed sum exactly when that is. -/
theorem addOverflows_iff_sum_ne (a b : Word) :
    addOverflows a b = true ↔ a.toInt + b.toInt ≠ (a + b).toInt := by
  constructor
  · intro h heq
    have hlow := BitVec.le_toInt (a + b)
    have hhigh := BitVec.toInt_lt (x := a + b)
    rw [addOverflows_iff_out_of_range, heq] at h
    omega
  · intro hne
    by_contra h
    rw [addOverflows_eq_saddOverflow] at h
    exact hne (BitVec.toInt_add_of_not_saddOverflow h).symm

theorem traps_add_iff {rd rs rt : RegIdx} {sh : BitVec 5} :
    traps s (.add rd rs rt sh) = true ↔
      s.settings.overflowCheck = true ∧
        (readReg s rs).toInt + (readReg s rt).toInt ≠ (readReg s rs + readReg s rt).toInt := by
  rw [← addOverflows_iff_sum_ne, ← Bool.and_eq_true]
  rfl

theorem exists_add_of_traps {i : Instr} (ht : traps s i = true) : ∃ rd rs rt sh, i = .add rd rs rt sh := by
  cases i with
  | add rd rs rt sh => exact ⟨rd, rs, rt, sh, rfl⟩
  | ori _ _ _ => cases ht
  | addu _ _ _ _ => cases ht
  | j _ => cases ht
  | lw _ _ _ => cases ht

/-- Settles O15: the premise says that the ADD does not trap. -/
theorem addCommitsTheSumWhenItDoesNotTrap : Obligations.AddCommitsTheSumWhenItDoesNotTrap := by
  unfold Obligations.AddCommitsTheSumWhenItDoesNotTrap
  intro s rd rs rt sh hsum
  have ht : traps s (.add rd rs rt sh) = false := Bool.eq_false_iff.2 (mt traps_add_iff.1 hsum)
  obtain ⟨t, h⟩ := exec_add_completes s rd rs rt sh
  exact ⟨t, h, readReg_exec_add h ht, exec_cop0_of_not_traps h ht, exec_pc_of_not_traps h ht,
    exec_events_of_not_traps h rfl ht⟩

end Sys2Proof.Machine
end

section
/-! The trapping ADD (42_add.md R152; 60_exceptions.md R233), and that no other step raises an exception. -/

namespace Sys2Proof.Machine

variable {s t : State} {i : Instr} {w : Word}

theorem writes_of_traps (ht : traps s i = true) : writes s i = 0#5 := by
  by_contra hw
  exact Bool.false_ne_true ((destination_of_writes hw).2.symm.trans ht)

theorem issues_of_traps (ht : traps s i = true) : issues s i = LoadSlot.empty := by
  obtain ⟨rd, rs, rt, sh, rfl⟩ := exists_add_of_traps ht
  rfl

theorem actionEvents_of_traps (ht : traps s i = true) :
    actionEvents s i = [.logArithmeticOverflow (s.pc - 4#32)] := by
  obtain ⟨rd, rs, rt, sh, rfl⟩ := exists_add_of_traps ht
  rw [actionEvents, if_neg (by simp [Instr.present]), if_pos ht]

/-- With CE 0 the record is BD and the code 12. -/
theorem recordedCause_overflow (c : Word) (bd : Bool) :
    recordedCause c .arithmeticOverflow bd 0#2 =
      (c &&& 0x4FFFFF83#32) ||| (if bd then 0x80000000#32 else 0) ||| 0x00000030#32 := by
  have hce : (0#2).setWidth 32 <<< 28 = 0#32 := by decide
  have hcode : (excCode .arithmeticOverflow).setWidth 32 <<< 2 = 0x00000030#32 := by decide
  have hbd : (BitVec.ofBool bd).setWidth 32 <<< 31 = if bd then 0x80000000#32 else 0 := by
    cases bd <;> decide
  rw [recordedCause, hce, hcode, hbd, BitVec.or_zero]

/-- Settles O18: the ADD traps, so it writes no register and issues no load, and its COP0 is that of exception entry
at its own offset. -/
theorem addTrapsOnCheckedOverflow : Obligations.AddTrapsOnCheckedOverflow := by
  unfold Obligations.AddTrapsOnCheckedOverflow
  intro s rd rs rt sh hcheck hsum
  have ht : traps s (.add rd rs rt sh) = true := traps_add_iff.2 ⟨hcheck, hsum⟩
  obtain ⟨t, h⟩ := exec_add_completes s rd rs rt sh
  obtain ⟨hslot, hpc, htarget⟩ := exec_redirects_of_traps h ht
  have hissue := issues_of_traps ht
  refine ⟨t, h, hpc, hslot, htarget, exec_epc_of_traps h ht, exec_sr_of_traps h ht, ?cause,
    fun _ => exec_readCop0_other h, exec_readReg_of_writes_zero h (writes_of_traps ht), (exec_ld h).trans hissue,
    ?events, ?dataReads, exec_keepsStorage h⟩
  case cause => rw [exec_cause_of_traps h ht, recordedCause_overflow]
  case events => rw [exec_events h, actionEvents_of_traps ht, List.append_assoc]; rfl
  case dataReads => rw [exec_dataReads h, hissue]; rfl

theorem isSpWrite_of_mem_loadEvents {lands : Bool} {e : Event} (he : e ∈ loadEvents s lands) : IsSpWrite e :=
  isSpWrite_of_mem_ite he

/-- An overflow is logged by a trapping instruction only, with its own offset. -/
theorem traps_of_log_mem_actionEvents {a : Word} (ha : .logArithmeticOverflow a ∈ actionEvents s i) :
    traps s i = true ∧ a = s.pc - 4#32 := by
  unfold actionEvents at ha
  split at ha
  next => cases List.mem_singleton.1 ha
  next =>
    split at ha
    next ht => cases List.mem_singleton.1 ha; exact ⟨ht, rfl⟩
    next => obtain ⟨_, _, hsp⟩ := isSpWrite_of_mem_ite ha; cases hsp

theorem Runs.traps_of_log_mem (h : Runs w s t) (hs : s.events = []) {a : Word}
    (ha : .logArithmeticOverflow a ∈ t.events) :
    ∃ i, exec i s = .next t ∧ traps s i = true ∧ a = s.pc - 4#32 := by
  cases h with
  | instr i hd h =>
    rw [exec_events h, hs, List.nil_append] at ha
    rcases List.mem_append.1 ha with haction | hload
    · exact ⟨i, h, traps_of_log_mem_actionEvents haction⟩
    · obtain ⟨_, _, hsp⟩ := isSpWrite_of_mem_loadEvents hload
      cases hsp
  | noOp e hd h =>
    rw [execUnimplemented_events h, hs, List.nil_append] at ha
    rcases List.mem_cons.1 ha with hlog | hload
    · cases hlog
    · obtain ⟨_, _, hsp⟩ := isSpWrite_of_mem_loadEvents hload
      cases hsp

/-- Settles O24: both a change of COP0 and an overflow's log event come from a trapping instruction, an ADD, whose pc
is the vector and whose cause is recorded. -/
theorem onlyTheTrappingAddRaisesAnException : Obligations.OnlyTheTrappingAddRaisesAnException := by
  unfold Obligations.OnlyTheTrappingAddRaisesAnException
  intro s t h
  obtain ⟨w, hf, hrun⟩ := step_runs h
  refine ⟨?cop0, fun a ha => ?log⟩
  case cop0 =>
    rcases hrun.cop0_eq_or_traps with heq | ⟨i, hd, h, ht⟩
    · exact .inl heq
    · obtain ⟨rd, rs, rt, sh, rfl⟩ := exists_add_of_traps ht
      obtain ⟨hcheck, hsum⟩ := traps_add_iff.1 ht
      exact .inr ⟨w, rd, rs, rt, sh, hf, hd, hcheck, hsum, (exec_pc_of_traps h ht :)⟩
  case log =>
    obtain ⟨i, h, ht, ha⟩ := hrun.traps_of_log_mem rfl ha
    refine ⟨ha.trans (afterFetch_pc_sub w s), ?_, (exec_pc_of_traps h ht :)⟩
    rw [exec_cause_of_traps h ht, recordedCause_code]
    rfl

end Sys2Proof.Machine
end

section
/-! The `pc` over a whole step, and over the two steps of a jump (43_control_transfer.md R171 to R175; 90_conflicts.md
C6). -/

namespace Sys2Proof.Machine

variable {s t : State} {w : Word}

/-- The fetch changes nothing that decides a trap. -/
theorem traps_afterFetch (w : Word) (s : State) (i : Instr) : traps (afterFetch w s) i = traps s i := by
  cases i <;> rfl

/-- Nor anything that decides the destination. -/
theorem destination_afterFetch (w : Word) (s : State) (i : Instr) :
    destination (afterFetch w s) i = destination s i := by
  cases i <;> rfl

theorem Runs.pc_of_traps (h : Runs w s t) (ht : ∃ i, decode w = .ok i ∧ traps s i = true) :
    t.pc = s.params.excVector := by
  obtain ⟨i, hd, ht⟩ := ht
  cases h with
  | instr i' hd' h => cases hd.symm.trans hd'; exact exec_pc_of_traps h ht
  | noOp e hd' h => cases hd.symm.trans hd'

theorem Runs.pc_of_not_traps (h : Runs w s t) (ht : ¬ ∃ i, decode w = .ok i ∧ traps s i = true) :
    t.pc = if s.inDelaySlot then s.branchTarget else s.pc := by
  cases h with
  | instr i hd h => exact exec_pc_of_not_traps h (Bool.eq_false_iff.2 fun hi => ht ⟨i, hd, hi⟩)
  | noOp e hd h => exact (execUnimplemented_sequencedOn h).pc

/-- A delay slot ends with its step, whatever is in it. -/
theorem Runs.normal_of_delaySlot (h : Runs w s t) (hds : s.inDelaySlot = true) : t.inDelaySlot = false := by
  cases h with
  | instr i hd h => rw [exec_inDelaySlot h, if_pos (.inr hds)]
  | noOp e hd h => exact (execUnimplemented_sequencedOn h).normal

/-- Settles O29: after the fetch the next offset is in `pc`. -/
theorem pcChangesOnlyAsListed : Obligations.PcChangesOnlyAsListed := by
  unfold Obligations.PcChangesOnlyAsListed
  intro s t w hf h trapped
  have hrun := runs_of_step hf h
  have htrapped : (∃ i, decode w = .ok i ∧ traps (afterFetch w s) i = true) ↔ trapped := by
    simp only [traps_afterFetch, trapped]
  refine ⟨fun ht => ?vector, fun ht hds => ?target, fun ht hds => ?next⟩
  case vector => exact hrun.pc_of_traps (htrapped.2 ht)
  case target => exact (hrun.pc_of_not_traps (mt htrapped.1 ht)).trans (if_pos hds)
  case next => exact (hrun.pc_of_not_traps (mt htrapped.1 ht)).trans (if_neg (Bool.eq_false_iff.1 hds))

/-- Settles O28: the J's step arms its target in NORMAL, so the second step is a delay slot whose branch target it
is. -/
theorem jumpTakesEffectAfterTheDelaySlot : Obligations.JumpTakesEffectAfterTheDelaySlot := by
  unfold Obligations.JumpTakesEffectAfterTheDelaySlot
  intro s s₁ s₂ w w₁ tgt he hds hf hd h hf₁ h₁
  rw [step_of_decode_ok hf hd] at h
  obtain ⟨hslot, hpc, _, hj, htarget⟩ := exec_arms_of_branches h hds he
  cases hj
  have hrun := runs_of_step hf₁ h₁
  refine ⟨hpc, ?slotEnd, hrun.normal_of_delaySlot hslot, fun ht => ?taken, fun ht => ?trapped⟩
  case slotEnd => rw [afterFetch_pc, hpc, afterFetch_pc, BitVec.add_assoc]; rfl
  case taken =>
    have hno : ¬ ∃ i, decode w₁ = .ok i ∧ traps (afterFetch w₁ s₁) i = true :=
      fun ⟨i, hdi, hti⟩ => Bool.false_ne_true ((ht i hdi).symm.trans hti)
    exact (hrun.pc_of_not_traps hno).trans ((if_pos hslot).trans htarget)
  case trapped => exact (hrun.pc_of_traps ht).trans (congrArg Params.excVector (exec_keepsStorage h).params)

end Sys2Proof.Machine
end

section
/-! The pending load of the step before (44_loads.md R200 to R208): when it lands, and what its register holds. -/

namespace Sys2Proof.Machine

variable {s t : State} {i : Instr}

theorem regAfterLoad_of_lands {r : RegIdx} (hr : s.ld.reg = r) (h0 : r ≠ 0#5) :
    regAfterLoad s true r = s.ld.value := if_pos ⟨rfl, hr, h0⟩

theorem regAfterLoad_of_not_lands (r : RegIdx) : regAfterLoad s false r = readReg s r :=
  if_neg fun h => Bool.false_ne_true h.1

theorem regAfterLoad_of_ne {lands : Bool} {r : RegIdx} (hr : s.ld.reg ≠ r) : regAfterLoad s lands r = readReg s r :=
  if_neg fun h => hr h.2.1

/-- Its register overwritten, or targeted by a new load, it does not land. -/
theorem loadLands_of_destination (hd : destination s i = s.ld.reg) (h0 : s.ld.reg ≠ 0#5) (ht : traps s i = false) :
    loadLands s i = false := by
  simp [loadLands, cancelsLoad, hd, h0, ht]

/-- Its register neither a destination nor an operand, nothing cancels it. -/
theorem cancelsLoad_of_not_named (hd : destination s i ≠ s.ld.reg) (hs : s.ld.reg ∉ sources i) :
    cancelsLoad s i = false := by
  simp [cancelsLoad, hd, hs]

/-- A reading instruction cancels it exactly where `LOAD_READ_CANCELS` is true. -/
theorem cancelsLoad_of_source (hd : destination s i ≠ s.ld.reg) (h0 : destination s i ≠ 0#5)
    (hs : s.ld.reg ∈ sources i) : cancelsLoad s i = s.params.loadReadCancels := by
  simp [cancelsLoad, bne, beq_false_of_ne hd, beq_false_of_ne h0, hs]

/-- A load that lands is in its register after the step. -/
theorem exec_readReg_of_lands (h : exec i s = .next t) (hl : loadLands s i = true) (h0 : s.ld.reg ≠ 0#5) :
    readReg t s.ld.reg = s.ld.value := by
  rw [exec_readReg h, hl, regAfterLoad_of_lands rfl h0]
  rintro ⟨hw, hr⟩
  exact Bool.false_ne_true ((loadLands_of_writes hw hr.symm).symm.trans hl)

/-- A load that does not land leaves its register alone, unless the instruction writes it. -/
theorem exec_readReg_of_not_lands (h : exec i s = .next t) (hl : loadLands s i = false)
    (hd : traps s i = true ∨ destination s i ≠ s.ld.reg) : readReg t s.ld.reg = readReg s s.ld.reg := by
  rw [exec_readReg h, hl, regAfterLoad_of_not_lands]
  rintro ⟨hw, hr⟩
  obtain ⟨hdest, ht⟩ := destination_of_writes hw
  rcases hd with ht' | hne
  · exact Bool.false_ne_true (ht.symm.trans ht')
  · exact hne (hdest.trans hr)

theorem destination_lw {rt rs : RegIdx} {imm : BitVec 16} (he : s.params.extJl = true) :
    destination s (.lw rt rs imm) = rt := if_pos he

theorem exec_lw_ld {rt rs : RegIdx} {imm : BitVec 16} (he : s.params.extJl = true) (h0 : rt ≠ 0#5)
    (h : exec (.lw rt rs imm) s = .next t) :
    t.ld = ⟨true, rt, dataWordAt s (effectiveAddress (readReg s rs) imm)⟩ := by
  rw [exec_ld h, issues_lw, if_pos ⟨he, h0⟩]

/-- The destination of an LW keeps its value for this step, a load pending on it or not. -/
theorem exec_lw_readReg_destination {rt rs : RegIdx} {imm : BitVec 16} (he : s.params.extJl = true) (h0 : rt ≠ 0#5)
    (h : exec (.lw rt rs imm) s = .next t) : readReg t rt = readReg s rt := by
  rw [exec_readReg_of_writes_zero h rfl]
  by_cases hr : s.ld.reg = rt
  · rw [loadLands_of_destination ((destination_lw he).trans hr.symm) (hr ▸ h0) rfl, regAfterLoad_of_not_lands]
  · exact regAfterLoad_of_ne hr

theorem exec_lw_completes {rt rs : RegIdx} {imm : BitVec 16} (ha : Aligned (effectiveAddress (readReg s rs) imm)) :
    ∃ t, exec (.lw rt rs imm) s = .next t := by
  rcases exec_outcome (.lw rt rs imm) s with h | ⟨_, hj, _⟩ | ⟨_, _, _, hlw, -, -, hna, -⟩
  · exact h
  · cases hj
  · cases hlw; exact absurd ha hna

/-- Settles O30: LW writes no register within its step, and the load it issues is the one that is pending after it. -/
theorem loadWordIssuesADelayedLoad : Obligations.LoadWordIssuesADelayedLoad := by
  unfold Obligations.LoadWordIssuesADelayedLoad
  intro s rt rs imm he h0 ha
  obtain ⟨t, h⟩ := exec_lw_completes (rt := rt) ha
  have hld := exec_lw_ld he h0 h
  refine ⟨t, h, hld, ?free, ?dataReads, exec_lw_readReg_destination he h0 h, exec_readReg_of_writes_zero h rfl,
    ?events, exec_cop0_of_not_traps h rfl, exec_sequencedOn h rfl rfl, exec_keepsStorage h⟩
  case free =>
    intro hfree
    simp only [hld, dataWordAt, effectiveAddress, sextImm, hfree]
  case dataReads => rw [exec_dataReads h, ← exec_ld h, hld]; rfl
  case events => rw [exec_events h, actionEvents_of_writes_zero (i := .lw rt rs imm) he rfl rfl, List.append_nil]

/-- Settles O32: the load lands exactly if it is not cancelled; the third clause is the LW's own load, which is issued
to the register whose older load it cancels. -/
theorem pendingLoadLandsUnlessCancelled : Obligations.PendingLoadLandsUnlessCancelled := by
  unfold Obligations.PendingLoadLandsUnlessCancelled
  intro s t i h hv h0
  refine ⟨fun hc => ?lands, fun hc hd => ?cancelled, fun rs imm hi he => ?replaced⟩
  case lands => exact exec_readReg_of_lands h (by simp [loadLands, hv, hc]) h0
  case cancelled => exact exec_readReg_of_not_lands h (by simp [loadLands, hc]) hd
  case replaced =>
    subst hi
    have hld := exec_lw_ld he h0 h
    exact ⟨exec_lw_readReg_destination he h0 h, by rw [hld], by rw [hld]⟩

/-- The register of a pending load after an instruction that reads it and has another destination. -/
theorem exec_readReg_of_source (h : exec i s = .next t) (hv : s.ld.valid = true) (hr : s.ld.reg ≠ 0#5)
    (hd : destination s i ≠ s.ld.reg) (h0 : destination s i ≠ 0#5) (hs : s.ld.reg ∈ sources i) :
    readReg t s.ld.reg = if s.params.loadReadCancels then readReg s s.ld.reg else s.ld.value := by
  have hl : loadLands s i = !s.params.loadReadCancels := by
    rw [loadLands, hv, cancelsLoad_of_source hd h0 hs, Bool.true_and]
  cases hp : s.params.loadReadCancels with
  | true => rw [hp] at hl; exact exec_readReg_of_not_lands h hl (.inr hd)
  | false => rw [hp] at hl; exact exec_readReg_of_lands h hl hr

/-- Settles O34: each instruction reads the pending register as it was, and what is left there is
`exec_readReg_of_source`. -/
theorem readingAPendingRegisterDiscardsTheLoad : Obligations.ReadingAPendingRegisterDiscardsTheLoad := by
  unfold Obligations.ReadingAPendingRegisterDiscardsTheLoad
  intro s d r v hd0 hr0 hdr hld left
  have hreg : s.ld.reg = r := by rw [hld]
  have hleft {i : Instr} {t : State} (h : exec i s = .next t) (hdest : destination s i = d) (hs : r ∈ sources i) :
      readReg t r = left := by
    have hread := exec_readReg_of_source h (by rw [hld]) (hreg ▸ hr0) (hreg ▸ hdest ▸ hdr) (hdest ▸ hd0) (hreg ▸ hs)
    rwa [hld] at hread
  refine ⟨fun imm => ?ori, fun rs rt sh hsrc => ⟨?addu, ?add⟩, fun imm he ha => ?lw⟩
  case ori =>
    obtain ⟨t, h⟩ := exec_ori_completes s d r imm
    exact ⟨t, h, readReg_exec_ori h hd0, exec_ld_invalid_of_writes h hd0, hleft h rfl (by simp [sources])⟩
  case addu =>
    obtain ⟨t, h⟩ := exec_addu_completes s d rs rt sh
    exact ⟨t, h, readReg_exec_addu h hd0, exec_ld_invalid_of_writes h hd0, hleft h rfl (by simpa [sources])⟩
  case add =>
    obtain ⟨t, h⟩ := exec_add_completes s d rs rt sh
    refine ⟨t, h, ?_, by rw [exec_ld h]; rfl, hleft h rfl (by simpa [sources])⟩
    split
    next ht =>
      rw [exec_readReg_of_writes_zero h (writes_of_traps ht), regAfterLoad_of_ne (hreg ▸ Ne.symm hdr)]
    next ht => exact readReg_exec_add h (Bool.eq_false_iff.2 ht) hd0
  case lw =>
    obtain ⟨t, h⟩ := exec_lw_completes (rt := d) ha
    exact ⟨t, h, exec_lw_ld he hd0 h, exec_lw_readReg_destination he hd0 h,
      hleft h (destination_lw he) (by simp [sources])⟩

/-- Settles O35: the load is pending after the first step, its register untouched, and no word that neither names nor
reads the register keeps it from landing in the second. -/
theorem loadedValueIsVisibleFromTheSecondStep : Obligations.LoadedValueIsVisibleFromTheSecondStep := by
  unfold Obligations.LoadedValueIsVisibleFromTheSecondStep
  intro s s₁ s₂ w w₁ rt rs imm he h0 hf hd h hf₁ h₁
  rw [step_of_decode_ok hf hd] at h
  have hld : s₁.ld = ⟨true, rt, dataWordAt s (readReg s rs + imm.signExtend 32)⟩ :=
    exec_lw_ld (s := afterFetch w s) he h0 h
  have hreg : (afterFetch w₁ s₁).ld.reg = rt := by rw [afterFetch_ld, hld]
  have hvalid : (afterFetch w₁ s₁).ld.valid = true := by rw [afterFetch_ld, hld]
  have hvalue : (afterFetch w₁ s₁).ld.value = dataWordAt s (readReg s rs + imm.signExtend 32) := by
    rw [afterFetch_ld, hld]
  refine ⟨exec_lw_readReg_destination (s := afterFetch w s) (t := s₁) he h0 h, fun hother => ?_⟩
  cases runs_of_step hf₁ h₁ with
  | instr i hd₁ h₁ =>
    obtain ⟨hdest, hsrc⟩ := hother i hd₁
    rw [← hreg] at hdest hsrc h0
    have hc := cancelsLoad_of_not_named (s := afterFetch w₁ s₁) (destination_afterFetch w₁ s₁ i ▸ hdest) hsrc
    rw [← hreg, ← hvalue]
    exact exec_readReg_of_lands h₁ (by rw [loadLands, hvalid, hc]; rfl) h0
  | noOp e hd₁ h₁ =>
    rw [execUnimplemented_readReg h₁, hvalid, regAfterLoad_of_lands hreg h0, hvalue]

end Sys2Proof.Machine
end

section
/-! Frames: ORI, ADD and ADDU write their destination and tell the interceptor (40_step_fetch_dispatch.md R114 to
R117); J and LW write no register of their own. -/

namespace Sys2Proof.Machine

variable {s t : State} {i : Instr}

/-- ORI, ADD and ADDU that do not trap write their destination and issue no load, in every profile. -/
theorem registerInstr_facts
    (hi : (∃ rt rs imm, i = .ori rt rs imm) ∨ (∃ rd rs rt h, i = .add rd rs rt h) ∨
      (∃ rd rs rt h, i = .addu rd rs rt h))
    (ht : traps s i = false) :
    i.present s.params = true ∧ branches s i = false ∧ writes s i = destination s i ∧
      issues s i = LoadSlot.empty := by
  rcases hi with ⟨rt, rs, imm, rfl⟩ | ⟨rd, rs, rt, sh, rfl⟩ | ⟨rd, rs, rt, sh, rfl⟩
  · exact ⟨rfl, rfl, rfl, rfl⟩
  · exact ⟨rfl, rfl, writes_add_of_not_traps ht, rfl⟩
  · exact ⟨rfl, rfl, rfl, rfl⟩

/-- Without a trap the events are the interceptor's: of the instruction's own write, whose new value is in the
register after the step, then of a load that lands. -/
theorem exec_events_of_present (h : exec i s = .next t) (hp : i.present s.params = true) (ht : traps s i = false) :
    t.events = s.events ++
      (if writes s i ≠ 0#5 ∧ writes s i = s.params.spIndex
       then [.spWrite (readReg s s.params.spIndex) (readReg t s.params.spIndex)] else []) ++
      loadEvents s (loadLands s i) := by
  rw [exec_events h, actionEvents, if_neg (by simp [hp]), if_neg (by simp [ht])]
  by_cases hsp : writes s i ≠ 0#5 ∧ writes s i = s.params.spIndex
  · rw [if_pos hsp, if_pos hsp, ← hsp.2, readReg_exec_writes h hsp.1]
  · rw [if_neg hsp, if_neg hsp]

/-- A write of the stack pointer cancels the one load whose landing would emit a second event. -/
theorem exec_events_of_writes_sp (h : exec i s = .next t) (hp : i.present s.params = true)
    (hw : writes s i = s.params.spIndex) (hsp : s.params.spIndex ≠ 0#5) :
    t.events = s.events ++ [.spWrite (readReg s s.params.spIndex) (readReg t s.params.spIndex)] := by
  have hw0 : writes s i ≠ 0#5 := hw ▸ hsp
  have hload : loadEvents s (loadLands s i) = [] := by
    refine if_neg ?_
    rintro ⟨hl, hr⟩
    exact Bool.false_ne_true ((loadLands_of_writes hw0 (hr.trans hw.symm)).symm.trans hl)
  rw [exec_events_of_present h hp (destination_of_writes hw0).2, if_pos ⟨hw0, hw⟩, hload, List.append_nil]

/-- Settles O38: the register each of the three writes is the stack pointer. -/
theorem stackPointerWritesAreIntercepted : Obligations.StackPointerWritesAreIntercepted := by
  unfold Obligations.StackPointerWritesAreIntercepted
  intro s rs rt imm sh hsp sp
  refine ⟨?ori, ?addu, fun ht => ?add⟩
  case ori =>
    obtain ⟨t, h⟩ := exec_ori_completes s sp rs imm
    exact ⟨t, h, exec_events_of_writes_sp h rfl rfl hsp⟩
  case addu =>
    obtain ⟨t, h⟩ := exec_addu_completes s sp rs rt sh
    exact ⟨t, h, exec_events_of_writes_sp h rfl rfl hsp⟩
  case add =>
    obtain ⟨t, h⟩ := exec_add_completes s sp rs rt sh
    exact ⟨t, h, exec_events_of_writes_sp h rfl (writes_add_of_not_traps ht) hsp⟩

/-- Settles O39: what is written is the destination, so the frame is that of what is not written. -/
theorem frameOfTheRegisterInstructions : Obligations.FrameOfTheRegisterInstructions := by
  unfold Obligations.FrameOfTheRegisterInstructions
  intro s t i hi ht h
  obtain ⟨hp, hb, hw, hissue⟩ := registerInstr_facts hi ht
  refine ⟨fun r hr => ?reg, ?events, exec_cop0_of_not_traps h ht, (exec_sequencedOn h hb ht).target, ?dataReads,
    (exec_ld h).trans hissue, exec_keepsStorage h⟩
  case reg => exact exec_readReg h fun hwr => hr (hwr.2.symm.trans hw)
  case events => rw [exec_events_of_present h hp ht, hw]
  case dataReads => rw [exec_dataReads h, hissue]; rfl

/-- Settles O40: neither writes a register within its step, takes an exception or writes storage. -/
theorem frameOfJumpAndLoadWord : Obligations.FrameOfJumpAndLoadWord := by
  unfold Obligations.FrameOfJumpAndLoadWord
  intro s t i hi he h
  obtain ⟨hw, ht⟩ : writes s i = 0#5 ∧ traps s i = false := by
    rcases hi with ⟨tgt, rfl⟩ | ⟨rt, rs, imm, rfl⟩ <;> exact ⟨rfl, rfl⟩
  refine ⟨exec_readReg_of_writes_zero h hw, exec_cop0_of_not_traps h ht, exec_keepsStorage h, ?jump, ?loadWord⟩
  case jump => rintro ⟨tgt, rfl⟩; exact ⟨exec_dataReads h, exec_ld h⟩
  case loadWord => rintro ⟨rt, rs, imm, rfl⟩; exact (exec_sequencedOn h rfl rfl).target

end Sys2Proof.Machine
end

section
/-! The state that no step reads (10_state.md R27, R28, R34): `cycle`, `hi`, `lo` and COP2. Whatever stands there, every
operation of a step does the same, so the values put there before it can as well be put there after it. `code` and the
last step's events need no such argument: the fetch overwrites them. -/

namespace Sys2Proof.Machine

/-- Values for the fields that no step reads. -/
structure Unread where
  cycle : Word
  hi : Word
  lo : Word
  cop2 : Vector Word 32

/-- The state with these values there. -/
def Unread.put (u : Unread) (s : State) : State := { s with cycle := u.cycle, hi := u.hi, lo := u.lo, cop2 := u.cop2 }

/-- The step's context with these values in its state. -/
def Unread.putCtx (u : Unread) (c : StepCtx) : StepCtx := { c with st := u.put c.st }

variable (u : Unread) (s : State) (c : StepCtx)

@[simp] theorem readReg_put (i : RegIdx) : readReg (u.put s) i = readReg s i := rfl
@[simp] theorem dataWordAt_put (a : Word) : dataWordAt (u.put s) a = dataWordAt s a := rfl
@[simp] theorem put_settings : (u.put s).settings = s.settings := rfl
@[simp] theorem putCtx_st : (u.putCtx c).st = u.put c.st := rfl

theorem commitReg_put (r : RegIdx) (v : Word) : commitReg r v (u.put s) = u.put (commitReg r v s) := by
  have hintercept : interceptSp r v (u.put s) = u.put (interceptSp r v s) :=
    (apply_ite u.put (r = s.params.spIndex) (emit (.spWrite (readReg s r) v) s) s).symm
  have hwrite (s' : State) : writeReg r v (u.put s') = u.put (writeReg r v s') :=
    (apply_ite u.put (r = 0#5) s' { s' with gpr := s'.gpr.set r.toNat v r.isLt }).symm
  rw [commitReg, hintercept, hwrite, commitReg]

theorem cancelByRead_put (i dst : RegIdx) : cancelByRead i dst (u.putCtx c) = u.putCtx (cancelByRead i dst c) :=
  (apply_ite u.putCtx (c.st.params.loadReadCancels = true ∧ dst ≠ 0#5) { c with old := c.old.cancel i } c).symm

theorem writeGPR_put (r : RegIdx) (v : Word) : writeGPR r v (u.putCtx c) = u.putCtx (writeGPR r v c) := by
  by_cases hr : r = 0#5
  · rw [hr, writeGPR_zero, writeGPR_zero]
  · simp only [writeGPR, if_neg hr, putCtx_st, commitReg_put]
    rfl

theorem sequenceDelaySlot_put : sequenceDelaySlot (u.putCtx c) = u.putCtx (sequenceDelaySlot c) := by
  obtain ⟨st, ds, old, new, exc, arm⟩ := c
  cases exc with
  | true => rfl
  | false =>
    cases ds with
    | true => rfl
    | false => cases arm <;> rfl

theorem resolvePending_put : resolvePending (u.putCtx c) = u.put (resolvePending c) := by
  obtain ⟨st, ds, ⟨valid, reg, value⟩, new, exc, arm⟩ := c
  cases valid with
  | true => exact congrArg (fun s : State => { s with ld := new }) (commitReg_put u st reg value)
  | false => rfl

theorem endStep_put : endStep (u.putCtx c) = u.put (endStep c) := by
  rw [endStep, sequenceDelaySlot_put, resolvePending_put, endStep]

/-- The action does the same whatever these values are. -/
def Ignores (u : Unread) (action : StepCtx → Host.Outcome StepCtx Fault Refusal) : Prop :=
  ∀ c c', action c = .next c' → action (u.putCtx c) = .next (u.putCtx c')

theorem runAction_put {u : Unread} {action : StepCtx → Host.Outcome StepCtx Fault Refusal} (ha : Ignores u action)
    {s t : State} (h : runAction action s = .next t) : runAction action (u.put s) = .next (u.put t) := by
  obtain ⟨c, hc, rfl⟩ := runAction_eq_next.1 h
  exact runAction_eq_next.2 ⟨_, ha _ _ hc, (endStep_put u c).symm⟩

theorem unimplementedAction_ignores : Ignores u unimplementedAction := by
  intro c c' h
  cases h
  rfl

theorem oriAction_ignores (rt rs : RegIdx) (imm : BitVec 16) : Ignores u (oriAction rt rs imm) := by
  intro c c' h
  rw [oriAction_eq] at h ⊢
  cases h
  split
  · rfl
  · rw [putCtx_st, readReg_put, cancelByRead_put, writeGPR_put]

theorem adduAction_ignores (rd rs rt : RegIdx) : Ignores u (adduAction rd rs rt) := by
  intro c c' h
  rw [adduAction_eq] at h ⊢
  cases h
  split
  · rfl
  · rw [putCtx_st, readReg_put, readReg_put, cancelByRead_put, cancelByRead_put, writeGPR_put]

theorem addAction_ignores (rd rs rt : RegIdx) : Ignores u (addAction rd rs rt) := by
  intro c c' h
  rw [addAction_eq] at h ⊢
  cases h
  rw [putCtx_st, put_settings, readReg_put, readReg_put, cancelByRead_put, cancelByRead_put, writeGPR_put]
  split <;> rfl

theorem jAction_ignores (target : BitVec 26) : Ignores u (jAction target) := by
  intro c c' h
  have hds : (u.putCtx c).ds = c.ds := rfl
  unfold jAction at h ⊢
  rw [hds]
  split at h
  next => cases h
  next hno => cases h; rw [if_neg hno]; rfl

theorem lwAction_ignores (rt rs : RegIdx) (imm : BitVec 16) : Ignores u (lwAction rt rs imm) := by
  intro c c' h
  rw [lwAction_eq_next] at h ⊢
  rw [putCtx_st, readReg_put, dataWordAt_put, cancelByRead_put]
  rcases h with ⟨h0, rfl⟩ | ⟨h0, ha, rfl⟩
  · exact .inl ⟨h0, rfl⟩
  · exact .inr ⟨h0, ha, rfl⟩

variable {u s} {t : State}

theorem exec_j_of_present {target : BitVec 26} (he : s.params.extJl = true) :
    exec (.j target) s = runAction (jAction target) s := if_pos he

theorem exec_lw_of_present {rt rs : RegIdx} {imm : BitVec 16} (he : s.params.extJl = true) :
    exec (.lw rt rs imm) s = runAction (lwAction rt rs imm) s := if_pos he

theorem execUnimplemented_put (h : execUnimplemented s = .next t) : execUnimplemented (u.put s) = .next (u.put t) :=
  runAction_put (unimplementedAction_ignores u) h

theorem exec_put {i : Instr} (h : exec i s = .next t) : exec i (u.put s) = .next (u.put t) := by
  cases hp : i.present s.params with
  | false =>
    rw [exec_of_not_present hp] at h
    exact (exec_of_not_present (s := u.put s) hp).trans (execUnimplemented_put h)
  | true =>
    cases i with
    | ori rt rs imm => exact runAction_put (oriAction_ignores u rt rs imm) h
    | add rd rs rt sh => exact runAction_put (addAction_ignores u rd rs rt) h
    | addu rd rs rt sh => exact runAction_put (adduAction_ignores u rd rs rt) h
    | j target =>
      rw [exec_j_of_present hp] at h
      exact (exec_j_of_present (s := u.put s) hp).trans (runAction_put (jAction_ignores u target) h)
    | lw rt rs imm =>
      rw [exec_lw_of_present hp] at h
      exact (exec_lw_of_present (s := u.put s) hp).trans (runAction_put (lwAction_ignores u rt rs imm) h)

/-- Settles O42: after the fetch the two states differ in `cycle`, `hi`, `lo` and COP2 alone, which nothing that runs
then reads. -/
theorem stepDoesNotReadTheObservationalState : Obligations.StepDoesNotReadTheObservationalState := by
  unfold Obligations.StepDoesNotReadTheObservationalState
  intro s t code cycle hi lo cop2 es h
  obtain ⟨w, hf, hrun⟩ := step_runs h
  let u : Unread := ⟨cycle + s.params.cycleBias, hi, lo, cop2⟩
  let s' : State := { s with code := code, cycle := cycle, hi := hi, lo := lo, cop2 := cop2, events := es }
  have hf' : iFetch s' s'.pc = some w := hf
  have hafter : afterFetch w s' = u.put (afterFetch w s) := rfl
  change step s' = .next (u.put t)
  cases hrun with
  | instr i hd h => rw [step_of_decode_ok hf' hd, hafter, exec_put h]
  | noOp e hd h => rw [step_of_decode_error hf' hd, hafter, execUnimplemented_put h]

end Sys2Proof.Machine
end

section
/-! The instruction store as the host writes it (20_memory.md R52 to R54): one form for each content, and the fetch of
a word that has been written. -/

namespace Sys2Proof.Machine

theorem Memory.read_head (k : Nat) (v : Byte) (m : Memory) : Memory.read ((k, v) :: m) k = v := if_pos rfl

/-- The lowest offset of a store in canonical form reads as no other store does whose offsets are all higher. -/
theorem Memory.head_le {k k' : Nat} {v v' : Byte} {m m' : Memory} (h : Memory.wf ((k, v) :: m))
    (h' : Memory.wf ((k', v') :: m')) (hread : Memory.read ((k, v) :: m) k = Memory.read ((k', v') :: m') k) :
    k' ≤ k := by
  by_contra hlt
  have hzero : Memory.read ((k', v') :: m') k = 0#8 := by
    refine Memory.read_of_lt fun c hc => ?_
    rcases List.mem_cons.1 hc with rfl | hc
    · exact Nat.not_le.1 hlt
    · exact Nat.lt_trans (Nat.not_le.1 hlt) (Memory.wf_head h' c hc)
  rw [Memory.read_head, hzero] at hread
  exact h.2 _ List.mem_cons_self hread

/-- No cell of a store in canonical form reads as the empty store does. -/
theorem Memory.eq_nil_of_read {m : Memory} (h : m.wf) (hread : ∀ a, m.read a = 0#8) : m = [] := by
  cases m with
  | nil => rfl
  | cons c m => exact absurd ((Memory.read_head c.1 c.2 m).symm.trans (hread c.1)) (h.2 c List.mem_cons_self)

theorem Memory.eq_of_read {m m' : Memory} (h : m.wf) (h' : m'.wf) (hread : ∀ a, m.read a = m'.read a) : m = m' := by
  induction m generalizing m' with
  | nil => exact (Memory.eq_nil_of_read h' fun a => (hread a).symm).symm
  | cons c m ih =>
    cases m' with
    | nil => exact Memory.eq_nil_of_read h hread
    | cons c' m' =>
      obtain ⟨k, v⟩ := c
      obtain ⟨k', v'⟩ := c'
      obtain rfl : k = k' := Nat.le_antisymm (Memory.head_le h' h (hread k').symm) (Memory.head_le h h' (hread k))
      obtain rfl : v = v' := by
        have hk := hread k
        rwa [Memory.read_head, Memory.read_head] at hk
      have htail : m = m' := by
        refine ih (Memory.wf_tail h) (Memory.wf_tail h') fun a => ?_
        by_cases ha : k = a
        · rw [← ha, Memory.read_of_lt (Memory.wf_head h), Memory.read_of_lt (Memory.wf_head h')]
        · have hread := hread a
          rwa [Memory.read, if_neg ha, Memory.read, if_neg ha] at hread
      rw [htail]

/-- Settles O51: by the lowest offset, its byte, and then the rest of the list. -/
theorem instructionStoreIsCanonical : Obligations.InstructionStoreIsCanonical := by
  unfold Obligations.InstructionStoreIsCanonical
  exact ⟨fun _ a b h => Memory.write_keeps_wf h a b, fun _ _ => Memory.eq_of_read⟩

/-- Byte `k` of the word at `a` is the byte at `a + k`. -/
theorem Memory.byteOfWord_readWord (m : Memory) (a : Nat) {k : Nat} (hk : k < 4) :
    byteOfWord (m.readWord a) k = m.read (a + k) := by
  obtain ⟨h0, h1, h2, h3⟩ := byteOfWord_wordOfBytes (m.read a) (m.read (a + 1)) (m.read (a + 2)) (m.read (a + 3))
  interval_cases k
  · exact h0
  · exact h1
  · exact h2
  · exact h3

/-- The four bytes of a word, written at `a`, are that word at `a`. -/
theorem Memory.readWord_writeBytes {m : Memory} (h : m.wf) (a : Nat) (w : Word) :
    (m.writeBytes a ((List.range 4).map (byteOfWord w))).readWord a = w := by
  have hbyte (k : Nat) (hk : k < 4) :
      (m.writeBytes a ((List.range 4).map (byteOfWord w))).read (a + k) = byteOfWord w k := by
    rw [Memory.read_writeBytes h, if_pos (Nat.le_add_right a k), Nat.add_sub_cancel_left, List.getElem?_map,
      List.getElem?_range hk]
    rfl
  have hfirst := hbyte 0 (by decide)
  rw [Nat.add_zero] at hfirst
  rw [Memory.readWord, hfirst, hbyte 1 (by decide), hbyte 2 (by decide), hbyte 3 (by decide), wordOfBytes_byteOfWord]

theorem writeICache_of_lt {s : State} {o : Nat} (b : Byte) (h : o < s.params.icacheBytes) :
    writeICache o b s = some { s with icache := s.icache.write o b } := if_pos h

theorem writeICache_of_le {s : State} {o : Nat} (b : Byte) (h : s.params.icacheBytes ≤ o) :
    writeICache o b s = none := if_neg (Nat.not_lt.2 h)

/-- Settles O50: both fetches answer, and byte by byte their words are what the two stores read. -/
theorem hostWriteIsSeenByTheNextFetch : Obligations.HostWriteIsSeenByTheNextFetch := by
  unfold Obligations.HostWriteIsSeenByTheNextFetch
  intro s o b hwf
  refine ⟨writeICache_of_le b, fun ho => ⟨_, writeICache_of_lt b ho, rfl, Memory.read_write hwf o b, ?fetch⟩⟩
  intro a k hk hak ha hin
  refine ⟨_, _, iFetch_eq_some.2 ⟨⟨ha, hin⟩, rfl⟩, iFetch_eq_some.2 ⟨⟨ha, hin⟩, rfl⟩, ?written, fun j hj hjk => ?kept⟩
  case written =>
    refine (Memory.byteOfWord_readWord _ _ hk).trans ?_
    rw [Memory.read_write hwf, if_pos hak]
  case kept =>
    refine (Memory.byteOfWord_readWord _ _ hj).trans (Eq.trans ?_ (Memory.byteOfWord_readWord _ _ hj).symm)
    rw [Memory.read_write hwf, if_neg (by omega)]

theorem tableWord_toNat (w : Word) : tableWord 32 w.toNat = w := by
  rw [tableWord, Nat.mod_eq_of_lt w.isLt, BitVec.ofNat_toNat, BitVec.setWidth_eq]

/-- Where the word fits, placing it writes its four bytes and nothing else. -/
theorem placeAtPc_of_le {s : State} (w : Word) (h : s.pc.toNat + 4 ≤ s.params.icacheBytes) :
    placeAtPc w s = { s with icache := s.icache.writeBytes s.pc.toNat ((List.range 4).map (byteOfWord w)) } :=
  if_neg (Nat.not_lt.2 h)

/-- Settles O53: the word's bytes are at `pc`, where the step fetches; an encoding decodes to its instruction. -/
theorem placedWordIsTheNextInstruction : Obligations.PlacedWordIsTheNextInstruction := by
  unfold Obligations.PlacedWordIsTheNextInstruction
  intro s hwf ha hin
  have hplaced (w : Word) : (s.withFetchWord 32 w.toNat).pc = s.pc ∧
      iFetch (s.withFetchWord 32 w.toNat) s.pc = some w := by
    rw [State.withFetchWord, tableWord_toNat, placeAtPc_of_le w hin]
    exact ⟨rfl, iFetch_eq_some.2 ⟨⟨ha, hin⟩, (Memory.readWord_writeBytes hwf _ w).symm⟩⟩
  refine ⟨hplaced, fun i => ?_⟩
  obtain ⟨hpc, hf⟩ := hplaced (encode i)
  exact step_of_decode_ok (hpc.symm ▸ hf) (decode_encode i)

end Sys2Proof.Machine
end

section
/-! Reset, power and the host's other operations (70_reset_and_hazards.md). -/

namespace Sys2Proof.Machine

variable {s : State}

theorem readReg_zeroed (p : Params) (r : RegIdx) : readReg (State.zeroed p) r = 0#32 := by
  simp [readReg, State.zeroed]

theorem readCop0_zeroed (p : Params) (n : RegIdx) : readCop0 (State.zeroed p) n = 0#32 := by
  simp [readCop0, State.zeroed]

theorem readCop2_zeroed (p : Params) (n : RegIdx) : readCop2 (State.zeroed p) n = 0#32 := by
  simp [readCop2, State.zeroed]

theorem inv_zeroed {p : Params} (hp : p.wf) : Inv (State.zeroed p) where
  paramsWf := hp
  icacheWf := Memory.wf_nil
  icacheInside := List.forall_mem_nil _
  zeroCell := rfl
  pcAligned := rfl
  targetAligned := rfl
  loadReg := fun h => nomatch h

theorem storageInv_zeroed (p : Params) : StorageInv (State.zeroed p) where
  hi := rfl
  lo := rfl
  cop2 := readCop2_zeroed p
  cop0 := fun n _ _ _ => readCop0_zeroed p n
  sr := readCop0_zeroed p _
  cause := .inl (readCop0_zeroed p _)

/-- The uninterpreted parameters are built within their constraints: a capacity of 1 to 2^30 words, a vector that ends
in two zeros. -/
theorem configParams_wf : Config.params.wf := by
  refine ⟨⟨?multiple, ?atLeast, ?atMost⟩, ?vector, ?stackPointer⟩
  case multiple => exact Nat.mul_mod_right 4 _
  case atLeast => exact Nat.le_mul_of_pos_right 4 (Nat.succ_pos _)
  case atMost =>
    have hwords : (~~~Config.missingIcacheWords).toNat + 1 ≤ 2 ^ 30 := (~~~Config.missingIcacheWords).isLt
    have hcapacity : Config.params.icacheBytes = 4 * ((~~~Config.missingIcacheWords).toNat + 1) := rfl
    omega
  case vector =>
    have hvector : Config.params.excVector.toNat = Config.excVectorWord.toNat * 4 := by
      change (Config.excVectorWord ++ 0#2).toNat = _
      rw [BitVec.toNat_append, BitVec.toNat_ofNat, Nat.zero_mod, Nat.or_zero, Nat.shiftLeft_eq]
    change Aligned Config.params.excVector
    rw [aligned_iff, hvector]
    exact Nat.mul_mod_left _ 4
  case stackPointer => change 29#5 ≠ 0#5; decide

/-- Settles O47: every field is zero, and `State.reset` is of the profile without J and LW. -/
theorem resetMeetsTheInvariants : Obligations.ResetMeetsTheInvariants := by
  unfold Obligations.ResetMeetsTheInvariants
  exact ⟨fun p hp => ⟨inv_zeroed hp, storageInv_zeroed p⟩, inv_zeroed configParams_wf,
    storageInv_zeroed Config.params, rfl, rfl, rfl⟩

/-- Settles O48: the registers, COP0 and COP2 read as those of `State.zeroed`, and power-on keeps of the state only
what it puts there again. -/
theorem powerOnZeroesTheProcessorState : Obligations.PowerOnZeroesTheProcessorState := by
  unfold Obligations.PowerOnZeroesTheProcessorState
  intro s t
  exact ⟨rfl, rfl, rfl, rfl, rfl, readReg_zeroed s.params, readCop0_zeroed s.params, readCop2_zeroed s.params,
    fun _ => rfl, rfl, rfl, rfl, rfl, rfl, rfl, rfl⟩

/-- Settles O49: power-on keeps three fields, and the premises give them their reset values. -/
theorem resetIsTheStatePowerOnLeaves : Obligations.ResetIsTheStatePowerOnLeaves := by
  unfold Obligations.ResetIsTheStatePowerOnLeaves
  refine ⟨rfl, rfl, rfl, fun s hparams hanswers hreads => ?_⟩
  rw [powerOn, hparams, hanswers, hreads]
  rfl

theorem powerOn_keeps_inv (hi : Inv s) : Inv (powerOn s) :=
  have ⟨hparams, hwf, hinside, hcell, hpc, htarget, hld⟩ := inv_zeroed hi.paramsWf
  ⟨hparams, hwf, hinside, hcell, hpc, htarget, hld⟩

theorem writeSettings_keeps_inv (hi : Inv s) (v : Bool) : Inv (writeSettings v s) :=
  ⟨hi.paramsWf, hi.icacheWf, hi.icacheInside, hi.zeroCell, hi.pcAligned, hi.targetAligned, hi.loadReg⟩

theorem answerData_keeps_inv (hi : Inv s) (a v : Word) : Inv (answerData a v s) :=
  ⟨hi.paramsWf, hi.icacheWf, hi.icacheInside, hi.zeroCell, hi.pcAligned, hi.targetAligned, hi.loadReg⟩

/-- A new content of the store, in canonical form and inside the capacity, keeps the invariant. -/
theorem withIcache_keeps_inv (hi : Inv s) {m : Memory} (hwf : m.wf) (hin : ∀ c ∈ m, c.1 < s.params.icacheBytes) :
    Inv { s with icache := m } :=
  ⟨hi.paramsWf, hwf, hin, hi.zeroCell, hi.pcAligned, hi.targetAligned, hi.loadReg⟩

theorem writeICache_keeps_inv (hi : Inv s) {o : Nat} {b : Byte} {s' : State} (h : writeICache o b s = some s') :
    Inv s' := by
  by_cases ho : o < s.params.icacheBytes
  · rw [writeICache_of_lt b ho] at h
    cases h
    refine withIcache_keeps_inv hi (Memory.write_keeps_wf hi.icacheWf o b) fun c hc => ?_
    rcases Memory.mem_write hc with hold | ⟨rfl, -⟩
    · exact hi.icacheInside c hold
    · exact ho
  · rw [writeICache_of_le b (Nat.not_lt.1 ho)] at h
    cases h

theorem placeAtPc_keeps_inv (hi : Inv s) (w : Word) : Inv (placeAtPc w s) := by
  by_cases hin : s.pc.toNat + 4 ≤ s.params.icacheBytes
  · rw [placeAtPc_of_le w hin]
    refine withIcache_keeps_inv hi (Memory.writeBytes_keeps_wf hi.icacheWf _ _) fun c hc => ?_
    rcases Memory.mem_writeBytes hc with hold | ⟨-, hlt⟩
    · exact hi.icacheInside c hold
    · exact Nat.lt_of_lt_of_le hlt hin
  · rwa [placeAtPc, if_pos (Nat.not_le.1 hin)]

/-- Settles O44: power-on leaves a zeroed state, the settings and the answers are in no field of the invariant, and the
two writes of the store keep its form and its bound. -/
theorem hostOperationsKeepTheInvariant : Obligations.HostOperationsKeepTheInvariant := by
  unfold Obligations.HostOperationsKeepTheInvariant
  exact fun s hi => ⟨powerOn_keeps_inv hi, powerOn_keeps_inv hi, writeSettings_keeps_inv hi, answerData_keeps_inv hi,
    fun _ _ _ => writeICache_keeps_inv hi, fun _ _ => placeAtPc_keeps_inv hi _⟩

/-- Settles O52: register `r` stands in row `r / 8` at place `r % 8`. -/
theorem registerDumpShowsTheRegisters : Obligations.RegisterDumpShowsTheRegisters := by
  unfold Obligations.RegisterDumpShowsTheRegisters
  intro s
  refine ⟨rfl, rfl, rfl, rfl, rfl, fun row hrow => ?width, fun r => ?place⟩
  case width =>
    obtain ⟨k, -, rfl⟩ := List.mem_map.1 hrow
    rw [List.length_map, List.length_range]
  case place =>
    have hrow : r.toNat / 8 < 4 := Nat.div_lt_of_lt_mul r.isLt
    have hplace : r.toNat % 8 < 8 := Nat.mod_lt _ (by decide)
    rw [registerDump, List.getElem?_map, List.getElem?_range hrow, Option.map_some, Option.bind_some,
      List.getElem?_map, List.getElem?_range hplace, Option.map_some, Nat.div_add_mod, BitVec.ofNat_toNat,
      BitVec.setWidth_eq]

end Sys2Proof.Machine
end

section
/-! Runs, observed and not (70_reset_and_hazards.md R284): both stop where a step does not answer a next state. -/

namespace Sys2Proof.Machine

variable {s t : State} {n : Nat}

theorem core_run_succ_eq_next :
    Sys2Proof.core.run (n + 1) s = .next t ↔ ∃ s', step s = .next s' ∧ Sys2Proof.core.run n s' = .next t := by
  rw [core_run_succ]
  cases step s <;> simp

theorem core_run_succ_eq_fault {r : Fault} :
    Sys2Proof.core.run (n + 1) s = .fault r ↔
      step s = .fault r ∨ ∃ s', step s = .next s' ∧ Sys2Proof.core.run n s' = .fault r := by
  rw [core_run_succ]
  cases step s with
  | next s' => simp
  | fault r' =>
    constructor
    · intro h; cases h; exact .inl rfl
    · rintro (h | ⟨_, h, -⟩) <;> cases h; rfl
  | refused r' => simp

theorem observeRun_succ_eq_next {es : List Event} :
    observeRun (n + 1) s = .next (t, es) ↔
      ∃ s' es', step s = .next s' ∧ observeRun n s' = .next (t, es') ∧ es = s'.events ++ es' := by
  rw [observeRun]
  cases step s with
  | next s' => cases h : observeRun n s' <;> simp [h, Prod.ext_iff, eq_comm, and_assoc]
  | fault r => simp
  | refused r => simp

theorem observeRun_succ_eq_fault {r : Fault} :
    observeRun (n + 1) s = .fault r ↔
      step s = .fault r ∨ ∃ s', step s = .next s' ∧ observeRun n s' = .fault r := by
  rw [observeRun]
  cases step s with
  | next s' => cases h : observeRun n s' <;> simp [h]
  | fault r => simp
  | refused r => simp

theorem core_run_eq_next_iff (n : Nat) (s t : State) :
    Sys2Proof.core.run n s = .next t ↔ ∃ es, observeRun n s = .next (t, es) := by
  induction n generalizing s with
  | zero =>
    constructor
    · intro h; cases h; exact ⟨[], rfl⟩
    · rintro ⟨_, h⟩; cases h; rfl
  | succ n ih =>
    simp only [core_run_succ_eq_next, observeRun_succ_eq_next, ih]
    constructor
    · rintro ⟨s', hs, es, hrun⟩; exact ⟨_, s', es, hs, hrun, rfl⟩
    · rintro ⟨_, s', es, hs, hrun, -⟩; exact ⟨s', hs, es, hrun⟩

theorem core_run_eq_fault_iff (n : Nat) (s : State) (r : Fault) :
    Sys2Proof.core.run n s = .fault r ↔ observeRun n s = .fault r := by
  induction n generalizing s with
  | zero => simp [core_run_zero, observeRun]
  | succ n ih => simp only [core_run_succ_eq_fault, observeRun_succ_eq_fault, ih]

/-- A step after the run adds its events at the end. -/
theorem observeRun_snoc {s' : State} {es : List Event} (hrun : observeRun n s = .next (s', es))
    (hstep : step s' = .next t) : observeRun (n + 1) s = .next (t, es ++ t.events) := by
  induction n generalizing s es with
  | zero =>
    cases hrun
    exact observeRun_succ_eq_next.2 ⟨t, [], hstep, rfl, (List.append_nil _).symm⟩
  | succ n ih =>
    obtain ⟨s₁, es₁, hs, hrun₁, rfl⟩ := observeRun_succ_eq_next.1 hrun
    exact observeRun_succ_eq_next.2 ⟨s₁, _, hs, ih hrun₁, List.append_assoc ..⟩

/-- Settles O54: by induction on the number of steps, each run taken apart at its first step. -/
theorem observedRunIsTheRunWithItsEvents : Obligations.ObservedRunIsTheRunWithItsEvents := by
  unfold Obligations.ObservedRunIsTheRunWithItsEvents
  exact ⟨core_run_eq_next_iff, core_run_eq_fault_iff, fun _ _ _ _ _ => observeRun_snoc⟩

end Sys2Proof.Machine
end
